-- ==== Sys2Proof/Word.lean ====
section
/-! DEFINITION. The word types of the block (spec R8: every byte is an unsigned 8-bit value, bit 0 the least significant). -/

namespace Sys2Proof

/-- A byte (R8). -/
abbrev Byte := BitVec 8

/-- A 4-bit peripheral register address (R7 `ADDR_BITS`, R40). -/
abbrev RegAddr := BitVec 4

/-- A host request word (R64). -/
abbrev ReqWord := BitVec 16

end Sys2Proof
end

