-- ==== Sys2Proof/Config.lean ====
section
/-! DEFINITION. The implementation parameters of 00_scope.md R7, the constants the spec fixes, and the free values. -/

namespace Sys2Proof

/-- What the transport answers to one transfer (R91): the bytes received, or a timeout. -/
inductive Answer where
  | ok (rx : List Byte)
  | timeout
deriving DecidableEq, Repr, Inhabited

/-- The parameters of the block (R7). "A model takes every parameter marked OPEN as an argument": they stand in State,
where no step changes them. -/
structure Params where
  /-- `P_XFER_TIMEOUT`, passed in every transfer and acted on by the transport only (R91, R152, D7). -/
  xferTimeout : Nat
  /-- `P_OSF_MASK`, in the seconds register (R55). -/
  osfMask : Byte
  /-- `P_AF_MASK`, in control_2 (R55). -/
  afMask : Byte
  /-- `P_TF_MASK`, in control_2 (R55). -/
  tfMask : Byte
  /-- `P_MSF_MASK`, in control_2 (R55). -/
  msfMask : Byte
  /-- `P_AIE_MASK`, in control_2 (R55). -/
  aieMask : Byte
  /-- `P_RESET_MAGIC`, the software reset byte (R110). -/
  resetMagic : Byte
  /-- `P_GETDT_MASK[0..6]`, applied to each date-time byte before decoding (R112, D17). -/
  getdtMask : Vector Byte 7
  /-- `P_WEEKDAY_INVALID`; no rule reads it (R7, D20). -/
  weekdayInvalid : Byte
  /-- `P_MONTH_INVALID`; no rule reads it (R7, D20). -/
  monthInvalid : Byte
  /-- `P_RESET_SETTLE`, a duty of the host; no rule reads it (R163, D44). -/
  resetSettle : Nat
deriving DecidableEq, Repr

namespace Config

/-- `N_REGS` (R7, C1). -/
def nRegs : Nat := 16

/-- `MAX_COUNT` (R7, D31). -/
def maxCount : Nat := 255

/-- `ALARM_DISABLE` (R7, R118). -/
def alarmDisable : Byte := 0x80

/-- `SA_BIT` (R7, R60). -/
def saBit : Byte := 0x10

/-- `DIR_READ` (R7, R60). -/
def dirRead : Byte := 0x80

/-- `DIR_WRITE` (R7, R60). -/
def dirWrite : Byte := 0x00

/-- The filler byte of a read frame (R62, D6). -/
def filler : Byte := 0x00

/-- FREE VALUE (assumption 3): the transport's answer number `d`, where State lists none (R91 "free draws"). -/
opaque freeAnswer : Nat → Answer

/-- FREE VALUE (assumption 4): byte `i` of draw number `d`: what the spec calls an unspecified byte (R30, R31, R142, R160). -/
opaque freeByte : Nat → Nat → Byte

/-- OPEN parameter (assumption 7): `P_XFER_TIMEOUT` of a block no one has given parameters. -/
opaque xferTimeout : Nat

/-- OPEN parameter (assumption 7): the bit of `P_OSF_MASK`; a mask has exactly one bit set (D12). -/
opaque osfBit : Fin 8

/-- OPEN parameter (assumption 7): the bits of control_2. AF, TF, MSF and AIE are the images of 0, 1, 2 and 3: every choice of
four distinct bits, and no other (D12 "pairwise distinct"). -/
opaque control2Layout : Equiv.Perm (Fin 8)

/-- OPEN parameter (assumption 7): `P_RESET_MAGIC`. -/
opaque resetMagic : Byte

/-- OPEN parameter (assumption 7): `P_WEEKDAY_INVALID`. -/
opaque weekdayInvalid : Byte

/-- OPEN parameter (assumption 7): `P_MONTH_INVALID`. -/
opaque monthInvalid : Byte

/-- OPEN parameter (assumption 7): `P_RESET_SETTLE`. -/
opaque resetSettle : Nat

/-- The mask whose one bit is bit `i`. -/
def maskOf (i : Fin 8) : Byte := 1#8 <<< i.val

/-- The parameters at `State.reset`: the OPEN ones opaque, `P_GETDT_MASK` at the value R7 gives. -/
def params : Params where
  xferTimeout := xferTimeout
  osfMask := maskOf osfBit
  afMask := maskOf (control2Layout 0)
  tfMask := maskOf (control2Layout 1)
  msfMask := maskOf (control2Layout 2)
  aieMask := maskOf (control2Layout 3)
  resetMagic := resetMagic
  getdtMask := Vector.replicate 7 0xFF
  weekdayInvalid := weekdayInvalid
  monthInvalid := monthInvalid
  resetSettle := resetSettle

end Config

end Sys2Proof
end

