-- ==== Sys2Proof/Syntax.lean ====
section
/-! DEFINITION. The instructions: the 13 host requests (R65) and the 2 wire commands (R60), one constructor per row of
spec/opcode_table.json; the names of the peripheral's registers (R41). -/

namespace Sys2Proof

/-- The direction of a frame (R60). -/
inductive Dir where
  | read
  | write
deriving DecidableEq, Repr

/-- The peripheral's registers, by the spec's names (R41). -/
inductive PReg where
  | control1
  | control2
  | seconds
  | minutes
  | hours
  | days
  | weekdays
  | months
  | years
  | minuteAlarm
  | hourAlarm
  | dayAlarm
  | weekdayAlarm
  | offset
  | timer0
  | timer1
deriving DecidableEq, Repr

/-- An instruction: a host request or a wire command. The operand types hold exactly the values the encoding admits (R66). -/
inductive Instr where
  /-- `INIT xfer, cs`: presence flags of the two capabilities (R95). -/
  | init (xfer cs : Bool)
  /-- `RDREG a, n`: read `n` registers from address `a` (R96). -/
  | rdreg (a : RegAddr) (n : Byte)
  /-- `WRREG a, n`: write `DATA[0..n-1]` to `n` registers from address `a` (R97). -/
  | wrreg (a : RegAddr) (n : Byte)
  /-- `SWRST`: software reset of the peripheral (R110). -/
  | swrst
  /-- `SETDT`: set time and date from `DATA[0..6]` (R111). -/
  | setdt
  /-- `GETDT`: get time and date (R112). -/
  | getdt
  /-- `SETALM m`: configure the alarm; bit 0 minute, 1 hour, 2 day, 3 weekday (R113). -/
  | setalm (m : BitVec 4)
  /-- `GETIRQ`: read control_2 (R114). -/
  | getirq
  /-- `CLRAF`: clear the alarm-fired flag (R115). -/
  | clraf
  /-- `CLRTF`: clear the timer-fired flag (R116). -/
  | clrtf
  /-- `CLRALL`: set AF, TF and MSF in control_2 (R117). -/
  | clrall
  /-- `BCDENC v`: encode one value (R84). -/
  | bcdenc (v : Byte)
  /-- `BCDDEC b`: decode one byte (R85). -/
  | bcddec (b : Byte)
  /-- The wire command byte `0x90 | a`: the read primitive's frame (R61, R92). -/
  | cmdRead (a : RegAddr)
  /-- The wire command byte `0x10 | a`: the write primitive's frame (R61, R93). -/
  | cmdWrite (a : RegAddr)
deriving DecidableEq, Repr

/-- An encoded instruction: a host request word (R64) or a wire command byte (R60). -/
inductive Encoded where
  | req16 (w : ReqWord)
  | wire8 (b : Byte)
deriving DecidableEq, Repr

/-- Is the instruction a host request (as against a wire command)? -/
def Instr.isRequest : Instr → Bool
  | .cmdRead _ => false
  | .cmdWrite _ => false
  | .init _ _ => true
  | .rdreg _ _ => true
  | .wrreg _ _ => true
  | .swrst => true
  | .setdt => true
  | .getdt => true
  | .setalm _ => true
  | .getirq => true
  | .clraf => true
  | .clrtf => true
  | .clrall => true
  | .bcdenc _ => true
  | .bcddec _ => true

end Sys2Proof
end

