-- ==== Sys2Proof/WellFormed.lean ====
section
/-! DEFINITION. What is well formed: a request word (R69), a wire command byte (R60, R63), a transfer buffer (R62, R71) and
the parameters (R7, D12). Every term of `Instr` is well formed: its operand types are the fields of R64 to R66 without the
must-be-zero bits, so the checks are on the encoded forms. -/

namespace Sys2Proof

/-- The must-be-zero bits of a request word with opcode `op` (R65); none for the unassigned opcodes. -/
def mustBeZero (op : BitVec 4) : Option ReqWord :=
  match op.toNat with
  | 1 => some 0x0FFC
  | 2 => some 0x0000
  | 3 => some 0x0000
  | 4 => some 0x0FFF
  | 5 => some 0x0FFF
  | 6 => some 0x0FFF
  | 7 => some 0x0FF0
  | 8 => some 0x0FFF
  | 9 => some 0x0FFF
  | 10 => some 0x0FFF
  | 11 => some 0x0FFF
  | 12 => some 0x0F00
  | 13 => some 0x0F00
  | _ => none

/-- A request word is legal when its opcode is assigned and its must-be-zero bits are 0 (R69). -/
def ReqWord.legal (w : ReqWord) : Bool :=
  match mustBeZero (w.extractLsb' 12 4) with
  | some m => w &&& m == 0
  | none => false

/-- A wire command byte has `SA = 1` and bits 6:5 = 0 (R60, R63). -/
def CmdByte.legal (b : Byte) : Bool := b &&& 0x70 == 0x10

/-- A transfer buffer: a legal command byte and 1 to 255 payload bytes (R62, R71); a read frame's payload is filler (R62). -/
def TxBuffer.wellFormed (tx : List Byte) : Bool :=
  match tx with
  | [] => false
  | c :: p =>
    CmdByte.legal c && decide (1 ≤ p.length) && decide (p.length ≤ Config.maxCount)
      && (c &&& Config.dirRead == 0 || p.all (· == Config.filler))

/-- Exactly one bit of the mask is set (R7, D12). -/
def oneBit (m : Byte) : Bool := m != 0 && m &&& (m - 1) == 0

/-- The masks have one bit each and the four of control_2 are pairwise distinct (R7, D12). -/
def Params.wellFormed (p : Params) : Bool :=
  oneBit p.osfMask && oneBit p.afMask && oneBit p.tfMask && oneBit p.msfMask && oneBit p.aieMask
    && p.afMask != p.tfMask && p.afMask != p.msfMask && p.afMask != p.aieMask
    && p.tfMask != p.msfMask && p.tfMask != p.aieMask && p.msfMask != p.aieMask

end Sys2Proof
end

