-- ==== Sys2Proof/Decode.lean ====
section
/-! DEFINITION. Decoding of request words (R64 to R66, R69) and wire command bytes (R60, R61), and the encoder. -/

namespace Sys2Proof

/-- Why a word or byte is no instruction. -/
inductive Reject where
  /-- `OP` is 0x0, 0xE or 0xF (R69). -/
  | unassignedOpcode
  /-- A must-be-zero bit of R65 is 1 (R69). -/
  | reservedNonzero
  /-- The command byte has `SA = 0` or a nonzero bit 6:5 (R60, R63). -/
  | notARegisterCommand
deriving DecidableEq, Repr

/-- `OP`, bits 15:12 of a request word (R64). -/
def opField (w : ReqWord) : BitVec 4 := w.extractLsb' 12 4

/-- `REG`, bits 11:8 of a request word (R64). -/
def regField (w : ReqWord) : RegAddr := w.extractLsb' 8 4

/-- `IMM`, bits 7:0 of a request word (R64). -/
def immField (w : ReqWord) : Byte := w.extractLsb' 0 8

/-- The instruction a request word with an assigned opcode stands for, its must-be-zero bits aside (R65, R66). -/
def requestOf (w : ReqWord) : Option Instr :=
  match (opField w).toNat with
  | 1 => some (.init ((immField w).getLsbD 0) ((immField w).getLsbD 1))
  | 2 => some (.rdreg (regField w) (immField w))
  | 3 => some (.wrreg (regField w) (immField w))
  | 4 => some .swrst
  | 5 => some .setdt
  | 6 => some .getdt
  | 7 => some (.setalm ((immField w).extractLsb' 0 4))
  | 8 => some .getirq
  | 9 => some .clraf
  | 10 => some .clrtf
  | 11 => some .clrall
  | 12 => some (.bcdenc (immField w))
  | 13 => some (.bcddec (immField w))
  | _ => none

/-- Decode a host request word (R65, R69). -/
def decodeReq (w : ReqWord) : Except Reject Instr :=
  match requestOf w with
  | none => .error .unassignedOpcode
  | some i => if ReqWord.legal w then .ok i else .error .reservedNonzero

/-- Decode a wire command byte (R60): `DIR`, bits 6:5 = 0, `SA = 1`, `ADDR`. -/
def decodeCmd (b : Byte) : Except Reject Instr :=
  if CmdByte.legal b then
    if b.getLsbD 7 then .ok (.cmdRead (b.extractLsb' 0 4)) else .ok (.cmdWrite (b.extractLsb' 0 4))
  else .error .notARegisterCommand

/-- Decode an encoded instruction. -/
def decode : Encoded → Except Reject Instr
  | .req16 w => decodeReq w
  | .wire8 b => decodeCmd b

/-- The command byte of a frame: `(dir == READ ? 0x80 : 0x00) | 0x10 | zext_8(a)` (R61). -/
def cmdByte (d : Dir) (a : RegAddr) : Byte :=
  (match d with
    | .read => Config.dirRead
    | .write => Config.dirWrite) ||| Config.saBit ||| a.zeroExtend 8

/-- A request word from its fields `OP`, `REG`, `IMM` (R64). -/
def reqWord (op : BitVec 4) (reg : RegAddr) (imm : Byte) : ReqWord := op ++ reg ++ imm

/-- Encode an instruction (R65, R72, R61). -/
def encode : Instr → Encoded
  | .init x c => .req16 (reqWord 0x1 0 (0#6 ++ BitVec.ofBool c ++ BitVec.ofBool x))
  | .rdreg a n => .req16 (reqWord 0x2 a n)
  | .wrreg a n => .req16 (reqWord 0x3 a n)
  | .swrst => .req16 (reqWord 0x4 0 0)
  | .setdt => .req16 (reqWord 0x5 0 0)
  | .getdt => .req16 (reqWord 0x6 0 0)
  | .setalm m => .req16 (reqWord 0x7 0 (0#4 ++ m))
  | .getirq => .req16 (reqWord 0x8 0 0)
  | .clraf => .req16 (reqWord 0x9 0 0)
  | .clrtf => .req16 (reqWord 0xA 0 0)
  | .clrall => .req16 (reqWord 0xB 0 0)
  | .bcdenc v => .req16 (reqWord 0xC 0 v)
  | .bcddec b => .req16 (reqWord 0xD 0 b)
  | .cmdRead a => .wire8 (cmdByte .read a)
  | .cmdWrite a => .wire8 (cmdByte .write a)

/-- The instruction read from a word numbered as spec/opcode_table.json numbers it: 16 bits for a host request (R64), 8 for a
wire command (R60). Other sizes and wider values are no instruction of this hardware. -/
def decodeTableWord (nbits w : Nat) : Option Instr :=
  let enc : Option Encoded :=
    if nbits = 16 then (if w < 65536 then some (.req16 (BitVec.ofNat 16 w)) else none)
    else if nbits = 8 then (if w < 256 then some (.wire8 (BitVec.ofNat 8 w)) else none)
    else none
  match enc with
  | none => none
  | some e =>
    match decode e with
    | .ok i => some i
    | .error _ => none

end Sys2Proof
end

