-- ==== Sys2Proof/Machine/Codec.lean ====
section
/-! DEFINITION. The BCD codec's functions (40_codec.md) and the alarm byte (R118). -/

namespace Sys2Proof.Machine

/-- `to_bcd(v) = ((v / 10) << 4) | (v % 10)` (R80). Defined by the spec for `v ≤ 99`; every request checks `codecOk` first. -/
def toBcd (v : Byte) : Byte := ((v / 10#8) <<< 4) ||| (v % 10#8)

/-- The domain of `to_bcd` (R80). -/
def codecOk (v : Byte) : Bool := decide (v.toNat ≤ 99)

/-- `from_bcd(b) = b[7:4] * 10 + b[3:0]` (R81), for every byte. -/
def fromBcd (b : Byte) : Byte := (b.extractLsb' 4 4).zeroExtend 8 * 10#8 + (b.extractLsb' 0 4).zeroExtend 8

/-- `alarm_byte(e, v)` (R118). -/
def alarmByte (e : Bool) (v : Byte) : Byte := if e then toBcd v else Config.alarmDisable

end Sys2Proof.Machine
end

