-- ==== Sys2Proof/Machine/State.lean ====
section
/-! DEFINITION. The state of the block (10_state.md), of its inputs, and what stops it. -/

namespace Sys2Proof.Machine

/-- The level of the chip-select output (R24). -/
inductive CsLevel where
  | unknown
  | asserted
  | deasserted
deriving DecidableEq, Repr

/-- What the block drives on the chip-select output: never a third value (R24, R148). -/
inductive CsDrive where
  | assert
  | deassert
deriving DecidableEq, Repr

/-- `STATUS.CODE`: the outcome of the last request (R21, R140). -/
inductive Code where
  | ok
  | timeout
  | constructionError
  | contractViolation
deriving DecidableEq, Repr

/-- The causes of a contract violation (R141). -/
inductive Cause where
  | noCause
  | unbound
  | zeroLength
  | illegalRequest
  | codecRange
  | unsetData
deriving DecidableEq, Repr

/-- An interface event (R27): a chip-select drive; a transfer `XFER(tx, n, t)` with its answer; the assertion hook. -/
inductive Event where
  | cs (d : CsDrive)
  | xfer (tx : List Byte) (n : Nat) (t : Nat) (r : Answer)
  | hook (c : Cause)
deriving DecidableEq, Repr

/-- A host-readable register (R20, R30). -/
inductive HostReg where
  | status
  | haltCause
  | resLen
  | res (i : Fin 255)
deriving DecidableEq, Repr

/-- A host action (R28 to R30, R161). `after` counts the interface events of a request in progress that a read or a reset
waits for before it lands (assumption 2). -/
inductive HostOp where
  /-- Write `w` to `REQ` (R28). -/
  | writeReq (w : ReqWord)
  /-- Write `v` to `DATA[i]` (R29). -/
  | writeData (i : Fin 255) (v : Byte)
  /-- Read a register (R30). -/
  | read (after : Nat) (r : HostReg)
  /-- The reset input (R161). -/
  | reset (after : Nat)
deriving DecidableEq, Repr

/-- The point of a request's pseudocode that the frame in progress returns to (R26). -/
inductive Point where
  /-- RDREG: `b <- MemRead(a, n)` (R96). -/
  | rdregData
  /-- WRREG: `MemWrite(a, n, ...)` (R97). -/
  | wrregSent
  /-- SWRST: `MemWrite(CONTROL_1, ...)` (R110). -/
  | swrstSent
  /-- SETDT: `MemWrite(SECONDS, 7, ...)` (R111). -/
  | setdtSent
  /-- GETDT frame 1: the preliminary read (R112). -/
  | getdtSeconds
  /-- GETDT: the corrective write (R112). -/
  | getdtAck
  /-- GETDT: the 7-byte read (R112). -/
  | getdtData
  /-- SETALM frame 1: the read of control_2 (R113). -/
  | setalmControl (m : BitVec 4)
  /-- SETALM frame 2: the write of control_2 (R113). -/
  | setalmEnabled (m : BitVec 4)
  /-- SETALM frames 3 to 6: alarm register `k` (R113). -/
  | setalmField (m : BitVec 4) (k : Fin 4)
  /-- GETIRQ: the read (R114). -/
  | getirqByte
  /-- CLRAF: the read (R115). -/
  | clrafRead
  /-- CLRAF: the write (R115). -/
  | clrafSent
  /-- CLRTF: the read (R116). -/
  | clrtfRead
  /-- CLRTF: the write (R116). -/
  | clrtfSent
  /-- CLRALL: the read (R117). -/
  | clrallRead
  /-- CLRALL: the write (R117). -/
  | clrallSent
deriving DecidableEq, Repr

/-- The point inside a frame (R90): which of its three events comes next. -/
inductive Phase where
  | assert
  | xfer
  | deassert (r : Answer)
deriving DecidableEq, Repr

/-- The sequencer position of a request in progress (R23, R26). -/
inductive SeqPos where
  /-- A contract violation was found: the next event is `HOOK(c)` (R143). -/
  | hook (c : Cause)
  /-- INIT: the next event is `CS(DEASSERT)` (R95). -/
  | initIdle
  /-- A frame with transfer buffer `tx` (R62), at `phase` (R90), for the request at `point`. -/
  | frame (tx : List Byte) (phase : Phase) (point : Point)
deriving DecidableEq, Repr

/-- The state of the block and of its inputs. -/
structure State where
  /-- `REQ` (R20): the word of the last host write. -/
  req : ReqWord
  /-- `DATA[0..254]` (R20, R29). -/
  data : Vector Byte 255
  /-- `DSET[0..254]` (R23, R29). -/
  dset : Vector Bool 255
  /-- `RES[0..254]` (R20, R31). -/
  res : Vector Byte 255
  /-- `RES_LEN` (R20). -/
  resLen : Byte
  /-- `STATUS.CODE` (R21). -/
  code : Code
  /-- `STATUS.OSF_SEEN` (R21, R32). -/
  osfSeen : Bool
  /-- `HALT_CAUSE` (R20, R141). -/
  haltCause : Cause
  /-- `BOUND` (R22). -/
  bound : Bool
  /-- `HALTED` (R23, R146). -/
  halted : Bool
  /-- `BUSY` (R23, R28). -/
  busy : Bool
  /-- `CS` (R24). -/
  cs : CsLevel
  /-- The sequencer position (R23, R26). -/
  seq : Option SeqPos
  /-- The event trace (R27), oldest first. -/
  trace : List Event
  /-- The parameters of the block (R7); no step changes them (assumption 7). -/
  cfg : Params
  /-- The MODEL's own field (assumption 2): the host's coming actions, first to come first. -/
  hostIn : List HostOp
  /-- The MODEL's own field (assumption 15): the bytes host reads have returned, oldest first. -/
  hostReads : List Byte
  /-- The MODEL's own field (assumption 3): the transport's coming answers, first to come first. -/
  answers : List Answer
  /-- The MODEL's own field (assumption 4): the number of the next free draw. -/
  draws : Nat
deriving DecidableEq, Repr

/-- The block after reset (R160). DATA, RES and REQ are unspecified there and hold 0 here (assumption 5, DESIGN CHOICE); the
parameters are Config's; nothing is listed on the inputs (assumptions 2, 3, 11). -/
def State.reset : State where
  req := 0
  data := Vector.replicate 255 0
  dset := Vector.replicate 255 false
  res := Vector.replicate 255 0
  resLen := 0
  code := .ok
  osfSeen := false
  haltCause := .noCause
  bound := false
  halted := false
  busy := false
  cs := .unknown
  seq := none
  trace := []
  cfg := Config.params
  hostIn := []
  hostReads := []
  answers := []
  draws := 0

/-- Why the machine stops. -/
inductive Fault where
  /-- A host request on a halted block: "no step ... stuck" (R28, R146). Raised by `accept`. Safe (assumption 8). -/
  | stuckHalted
  /-- A host request on a busy block: "no step: the host is held" (R28). Raised by `accept`; `step` lets the block run first
  and never raises it where BUSY agrees with the sequencer. Safe (assumption 8). -/
  | heldBusy
  /-- A wire command while no frame waits to send it (R98). Raised by the two wire commands. Safe (assumption 10). -/
  | noPendingFrame
  /-- A transfer buffer without a command byte of R60: never produced by the block (R63). Raised by `step`. Safe
  (assumption 10). -/
  | badCommand
deriving DecidableEq, Repr

/-- Why an instruction has no meaning. -/
inductive Refusal where
  /-- An instruction the model has not reached, by its mnemonic. Raised by `exec`. Safe. -/
  | notModelled (mnemonic : String)
deriving DecidableEq, Repr

end Sys2Proof.Machine
end

