-- ==== Sys2Proof/Machine/Flags.lean ====
section
/-! DEFINITION. The codes of STATUS.CODE and HALT_CAUSE and the byte STATUS (R21, R140, R141). -/

namespace Sys2Proof.Machine

/-- The value of `STATUS.CODE` (R21). -/
def Code.bits : Code → BitVec 3
  | .ok => 0
  | .timeout => 1
  | .constructionError => 2
  | .contractViolation => 3

/-- The value of `HALT_CAUSE` (R141). -/
def Cause.bits : Cause → Byte
  | .noCause => 0
  | .unbound => 1
  | .zeroLength => 2
  | .illegalRequest => 3
  | .codecRange => 4
  | .unsetData => 5

/-- The byte `STATUS` (R21): bit 7 reads 0, then BUSY, BOUND, HALTED, OSF_SEEN, CODE. -/
def State.statusByte (s : State) : Byte :=
  0#1 ++ BitVec.ofBool s.busy ++ BitVec.ofBool s.bound ++ BitVec.ofBool s.halted ++ BitVec.ofBool s.osfSeen ++ s.code.bits

end Sys2Proof.Machine
end

