-- ==== Sys2Proof/Machine/Operands.lean ====
section
/-! DEFINITION. The operands: DATA bytes (R66, R67), peripheral register addresses (R41) and the registers a frame's payload
addresses (R42). -/

namespace Sys2Proof

/-- The address of a peripheral register (R41). -/
def PReg.addr : PReg → RegAddr
  | .control1 => 0x0
  | .control2 => 0x1
  | .seconds => 0x2
  | .minutes => 0x3
  | .hours => 0x4
  | .days => 0x5
  | .weekdays => 0x6
  | .months => 0x7
  | .years => 0x8
  | .minuteAlarm => 0x9
  | .hourAlarm => 0xA
  | .dayAlarm => 0xB
  | .weekdayAlarm => 0xC
  | .offset => 0xD
  | .timer0 => 0xE
  | .timer1 => 0xF

end Sys2Proof

namespace Sys2Proof.Machine

/-- `DATA[0..n-1]` (R67). -/
def State.dataBytes (s : State) (n : Nat) : List Byte := s.data.toList.take n

/-- Has the host written all of `DATA[0..n-1]` (R29)? -/
def State.dataSet (s : State) (n : Nat) : Bool := (s.dset.toList.take n).all id

/-- `DATA[k]` of alarm field `k` (R67). -/
def State.alarmData (s : State) (k : Fin 4) : Byte := s.data[k.val]

/-- Has the host written `DATA[k]` for every enabled alarm field `k` (R113)? -/
def State.alarmSet (s : State) (m : BitVec 4) : Bool :=
  (List.finRange 4).all fun k => !m.getLsbD k.val || s.dset[k.val]

/-- Is `DATA[k]` within 0..99 for every enabled alarm field `k` (R113)? -/
def State.alarmOk (s : State) (m : BitVec 4) : Bool :=
  (List.finRange 4).all fun k => !m.getLsbD k.val || codecOk (s.alarmData k)

/-- The alarm registers in the order they are written: minute, hour, day, weekday (R113). -/
def alarmReg (k : Fin 4) : RegAddr := PReg.minuteAlarm.addr + BitVec.ofNat 4 k.val

/-- The peripheral register that payload byte `k` of a frame at address `a` addresses: `(a + k) % 16` (R42). -/
def payloadReg (a : RegAddr) (k : Nat) : RegAddr := a + BitVec.ofNat 4 k

/-- The register writes an event asks the peripheral for, in order (R42, R93); a read frame asks for none (R48). -/
def Event.registerWrites : Event → List (RegAddr × Byte)
  | .cs _ => []
  | .hook _ => []
  | .xfer [] _ _ _ => []
  | .xfer (c :: p) _ _ _ =>
    if c.getLsbD 7 then [] else p.mapIdx fun k v => (payloadReg (c.extractLsb' 0 4) k, v)

end Sys2Proof.Machine
end

