-- ==== Sys2Proof/Machine/Ops.lean ====
section
/-! DEFINITION. The named operations: emitting an event, the transport's draw, the ends of a request (normal, Timeout,
ContractViolation), starting a frame, and the host's own actions. -/

namespace Sys2Proof.Machine

/-- A bank of 255 registers from the value of each. -/
def bank255 (f : Nat → Byte) : Vector Byte 255 := ⟨((List.range 255).map f).toArray, by simp⟩

/-- `emit E` (R9, R27): append to the trace; a chip-select event also sets `CS` (R24). -/
def emit (e : Event) (s : State) : State :=
  { s with
    trace := s.trace ++ [e]
    cs := match e with
      | .cs .assert => .asserted
      | .cs .deassert => .deasserted
      | .xfer _ _ _ _ => s.cs
      | .hook _ => s.cs }

/-- An answer as a transfer of `n` bytes receives it: exactly `n` bytes (R91 `len(rx) = n`); bytes that are not listed are
free (assumption 4). -/
def fitAnswer (d n : Nat) : Answer → Answer
  | .ok rx => .ok ((List.range n).map fun i => rx[i]?.getD (Config.freeByte d i))
  | .timeout => .timeout

/-- The answer the transport gives to the `k`-th transfer from now, of `n` bytes: the next listed one, beyond the list a free
one (R91; assumption 3). -/
def State.answerNo (s : State) (k n : Nat) : Answer :=
  fitAnswer (s.draws + k) n ((s.answers[k]?).getD (Config.freeAnswer (s.draws + k)))

/-- The state after one transfer was answered. -/
def State.answered (s : State) : State := { s with answers := s.answers.tail, draws := s.draws + 1 }

/-- `RES[0..len-1]` and `RES_LEN`; the bytes of RES beyond become unspecified (R31, R142). -/
def setResult (bytes : List Byte) (s : State) : State :=
  { s with
    res := bank255 fun i => bytes[i]?.getD (Config.freeByte s.draws i)
    resLen := BitVec.ofNat 8 bytes.length
    draws := s.draws + 1 }

/-- The end of a request (R28, R31): its results, its outcome, BUSY back to 0, the sequencer position discarded (R26). -/
def endRequest (c : Code) (bytes : List Byte) (s : State) : State :=
  { setResult bytes s with code := c, busy := false, seq := none }

/-- `raise ContractViolation(cause)` found by a check (R144): the next event is `HOOK(cause)`. -/
def raiseViolation (c : Cause) (s : State) : State := { s with seq := some (.hook c) }

/-- The effect of `raise ContractViolation(cause)`, in the order of R143. -/
def takeViolation (c : Cause) (s : State) : State :=
  endRequest .contractViolation [] { emit (.hook c) s with haltCause := c, halted := true }

/-- The effect of `raise Timeout()` (R142); the frame's `CS(DEASSERT)` comes before it. -/
def raiseTimeout (s : State) : State := endRequest .timeout [] s

/-- A check of R144: go on if it holds, else raise. -/
def check (holds : Bool) (c : Cause) (go : State → State) (s : State) : State :=
  if holds then go s else raiseViolation c s

/-- The transfer buffer `[cmd(READ, a)] ++ fill(n, 0x00)` (R62). -/
def readBuffer (a : RegAddr) (n : Nat) : List Byte := cmdByte .read a :: List.replicate n Config.filler

/-- The transfer buffer `[cmd(WRITE, a)] ++ v` (R62). -/
def writeBuffer (a : RegAddr) (v : List Byte) : List Byte := cmdByte .write a :: v

/-- `MemRead(a, n)` (R92), to return to `p`. -/
def startRead (a : RegAddr) (n : Nat) (p : Point) (s : State) : State :=
  { s with seq := some (.frame (readBuffer a n) .assert p) }

/-- `MemWrite(a, n, v)` (R93), to return to `p`. -/
def startWrite (a : RegAddr) (v : List Byte) (p : Point) (s : State) : State :=
  { s with seq := some (.frame (writeBuffer a v) .assert p) }

/-- The first payload byte of an answer: the byte a single-register read returns (R92). An answer to a frame has at least two
bytes (R91), so the free value in its place is never read. -/
def firstByte (b : List Byte) : Byte := b.headD (Config.freeByte 0 0)

/-- Block reset at the reset input (R160, R161): the state of `State.reset` with DATA, RES and REQ unspecified (assumption 9).
The parameters and what is outside the block (the host's, the transport's) stay. -/
def blockReset (s : State) : State :=
  { State.reset with
    req := Config.freeByte s.draws 0 ++ Config.freeByte s.draws 1
    data := bank255 (Config.freeByte (s.draws + 1))
    res := bank255 (Config.freeByte (s.draws + 2))
    cfg := s.cfg
    hostIn := s.hostIn
    hostReads := s.hostReads
    answers := s.answers
    draws := s.draws + 3 }

/-- A host write of `v` to `DATA[i]` (R29). -/
def writeData (i : Fin 255) (v : Byte) (s : State) : State :=
  { s with data := s.data.set i.val v, dset := s.dset.set i.val true }

/-- The byte a host read of `r` returns (R30): `RES[i]` with `i ≥ RES_LEN` is a draw (D42). -/
def State.readReg (s : State) : HostReg → Byte
  | .status => s.statusByte
  | .haltCause => s.haltCause.bits
  | .resLen => s.resLen
  | .res i => if i.val < s.resLen.toNat then s.res[i.val] else Config.freeByte s.draws i.val

/-- A host read (R30): it changes nothing of the block; the byte goes to the host. -/
def hostRead (r : HostReg) (s : State) : State :=
  { s with hostReads := s.hostReads ++ [s.readReg r], draws := s.draws + 1 }

/-- Does a host action due now land inside a request: a read or a reset whose wait is over (R30, R161; assumption 2)? -/
def State.interrupted (s : State) : Bool :=
  match s.hostIn with
  | .read 0 _ :: _ => true
  | .reset 0 :: _ => true
  | _ => false

/-- One event has passed for the host action that comes next (assumption 2). -/
def tick : List HostOp → List HostOp
  | .read (k + 1) r :: rest => .read k r :: rest
  | .reset (k + 1) :: rest => .reset k :: rest
  | l => l

end Sys2Proof.Machine
end

