-- ==== Sys2Proof/Machine/Resume.lean ====
section
/-! DEFINITION. The requests' pseudocode after each of their frames (41_framer.md, 42_rtc_ops.md): one definition per point,
`b` the bytes `rx[1..n]` the frame returned (R92; a write's response is discarded, R93). -/

namespace Sys2Proof.Machine

/-- RDREG: `for k: RES[k] <- b[k]`, `RES_LEN <- n` (R96). -/
def afterRdregData (b : List Byte) (s : State) : State := endRequest .ok b s

/-- WRREG: `RES_LEN <- 0` (R97). -/
def afterWrregSent (s : State) : State := endRequest .ok [] s

/-- SWRST: `RES_LEN <- 0` (R110). -/
def afterSwrstSent (s : State) : State := endRequest .ok [] s

/-- SETDT: `RES_LEN <- 0` (R111). -/
def afterSetdtSent (s : State) : State := endRequest .ok [] s

/-- GETDT: the 7-byte read `b <- MemRead(SECONDS, 7)` (R112). -/
def readDatetime (s : State) : State := startRead PReg.seconds.addr 7 .getdtData s

/-- GETDT after the preliminary read: OSF_SEEN and the corrective write if the flag is set, else the 7-byte read (R112). -/
def afterGetdtSeconds (b : List Byte) (s : State) : State :=
  let sec := firstByte b
  if sec &&& s.cfg.osfMask != 0 then
    startWrite PReg.seconds.addr [sec &&& ~~~s.cfg.osfMask] .getdtAck { s with osfSeen := true }
  else readDatetime s

/-- GETDT after the corrective write (R112). -/
def afterGetdtAck (s : State) : State := readDatetime s

/-- GETDT: `RES[k] <- from_bcd(b[k] & P_GETDT_MASK[k])`, `RES_LEN <- 7` (R112). -/
def afterGetdtData (b : List Byte) (s : State) : State :=
  endRequest .ok (List.zipWith (fun v m => fromBcd (v &&& m)) b s.cfg.getdtMask.toList) s

/-- SETALM: the write of alarm register `k` (R113). -/
def writeAlarm (m : BitVec 4) (k : Fin 4) (s : State) : State :=
  startWrite (alarmReg k) [alarmByte (m.getLsbD k.val) (s.alarmData k)] (.setalmField m k) s

/-- SETALM after the read of control_2: `MemWrite(CONTROL_2, 1, [(r & ~P_AF_MASK) | P_AIE_MASK])` (R113). -/
def afterSetalmControl (m : BitVec 4) (b : List Byte) (s : State) : State :=
  startWrite PReg.control2.addr [(firstByte b &&& ~~~s.cfg.afMask) ||| s.cfg.aieMask] (.setalmEnabled m) s

/-- SETALM after the write of control_2: the first alarm register (R113). -/
def afterSetalmEnabled (m : BitVec 4) (s : State) : State := writeAlarm m 0 s

/-- SETALM after alarm register `k`: the next one, after the fourth `RES_LEN <- 0` (R113). -/
def afterSetalmField (m : BitVec 4) (k : Fin 4) (s : State) : State :=
  if h : k.val + 1 < 4 then writeAlarm m ⟨k.val + 1, h⟩ s else endRequest .ok [] s

/-- GETIRQ: `RES[0] <- MemRead(CONTROL_2, 1)[0]`, `RES_LEN <- 1` (R114). -/
def afterGetirqByte (b : List Byte) (s : State) : State := endRequest .ok [firstByte b] s

/-- CLRAF after the read: `MemWrite(CONTROL_2, 1, [r & ~P_AF_MASK])` (R115). -/
def afterClrafRead (b : List Byte) (s : State) : State :=
  startWrite PReg.control2.addr [firstByte b &&& ~~~s.cfg.afMask] .clrafSent s

/-- CLRAF: `RES_LEN <- 0` (R115). -/
def afterClrafSent (s : State) : State := endRequest .ok [] s

/-- CLRTF after the read: `MemWrite(CONTROL_2, 1, [r & ~P_TF_MASK])` (R116). -/
def afterClrtfRead (b : List Byte) (s : State) : State :=
  startWrite PReg.control2.addr [firstByte b &&& ~~~s.cfg.tfMask] .clrtfSent s

/-- CLRTF: `RES_LEN <- 0` (R116). -/
def afterClrtfSent (s : State) : State := endRequest .ok [] s

/-- CLRALL after the read: `MemWrite(CONTROL_2, 1, [r | P_AF_MASK | P_TF_MASK | P_MSF_MASK])` (R117). -/
def afterClrallRead (b : List Byte) (s : State) : State :=
  startWrite PReg.control2.addr [firstByte b ||| s.cfg.afMask ||| s.cfg.tfMask ||| s.cfg.msfMask] .clrallSent s

/-- CLRALL: `RES_LEN <- 0` (R117). -/
def afterClrallSent (s : State) : State := endRequest .ok [] s

/-- Go on at a point of a request's pseudocode with the bytes its frame returned (R26). -/
def resume (p : Point) (b : List Byte) (s : State) : State :=
  match p with
  | .rdregData => afterRdregData b s
  | .wrregSent => afterWrregSent s
  | .swrstSent => afterSwrstSent s
  | .setdtSent => afterSetdtSent s
  | .getdtSeconds => afterGetdtSeconds b s
  | .getdtAck => afterGetdtAck s
  | .getdtData => afterGetdtData b s
  | .setalmControl m => afterSetalmControl m b s
  | .setalmEnabled m => afterSetalmEnabled m s
  | .setalmField m k => afterSetalmField m k s
  | .getirqByte => afterGetirqByte b s
  | .clrafRead => afterClrafRead b s
  | .clrafSent => afterClrafSent s
  | .clrtfRead => afterClrtfRead b s
  | .clrtfSent => afterClrtfSent s
  | .clrallRead => afterClrallRead b s
  | .clrallSent => afterClrallSent s

end Sys2Proof.Machine
end

