-- ==== Sys2Proof/Machine/Sequencer.lean ====
section
/-! DEFINITION. The sequencer: one interface event per block step (R26), the run of a request, and its acceptance (R28). -/

namespace Sys2Proof.Machine

/-- The end of a frame after `CS(DEASSERT)`: a Timeout is raised (R92, R93), else the request goes on with `rx[1..n]`;
`rx[0]` is discarded (R44). -/
def returnFrame (p : Point) (r : Answer) (s : State) : State :=
  match r with
  | .timeout => raiseTimeout s
  | .ok rx => resume p rx.tail s

/-- The transfer of a frame: `XFER(tx, n, t)` with `n = len(tx)`, `t = P_XFER_TIMEOUT`, and the transport's answer (R91). -/
def xferEvent (tx : List Byte) (s : State) : Event := .xfer tx tx.length s.cfg.xferTimeout (s.answerNo 0 tx.length)

/-- One block step from a position (R26): its one event, then the pseudocode up to the next event. -/
def advanceAt (pos : SeqPos) (s : State) : State :=
  match pos with
  | .hook c => takeViolation c s
  | .initIdle => endRequest .ok [] (emit (.cs .deassert) s)
  | .frame tx .assert p => { emit (.cs .assert) s with seq := some (.frame tx .xfer p) }
  | .frame tx .xfer p =>
    { emit (xferEvent tx s) s.answered with seq := some (.frame tx (.deassert (s.answerNo 0 tx.length)) p) }
  | .frame _ (.deassert r) p => returnFrame p r (emit (.cs .deassert) s)

/-- One block step (R26); an idle block has none. The next host action waits one event less (assumption 2). -/
def advance (s : State) : State :=
  match s.seq with
  | none => s
  | some pos => advanceAt pos { s with hostIn := tick s.hostIn }

/-- Up to `k` block steps: until the request ends or a host action lands (assumptions 1, 2). -/
def run : Nat → State → State
  | 0, s => s
  | k + 1, s => if s.seq.isNone || s.interrupted then s else run k (advance s)

/-- The most events a request has: SETALM's six frames of three (R113). -/
def maxEvents : Nat := 18

/-- Accept a host request (R28): no step while HALTED or BUSY; BUSY is set, OSF_SEEN cleared, and the request runs from its
first pseudocode line. -/
def accept (start : State → State) (s : State) : Host.Outcome State Fault Refusal :=
  if s.halted then .fault .stuckHalted
  else if s.busy then .fault .heldBusy
  else .next (run maxEvents (start { s with busy := true, osfSeen := false }))

/-- The events left of the frame, or of the single event, at a position (R90). -/
def eventsLeft : SeqPos → Nat
  | .hook _ => 1
  | .initIdle => 1
  | .frame _ .assert _ => 3
  | .frame _ .xfer _ => 2
  | .frame _ (.deassert _) _ => 1

end Sys2Proof.Machine
end

