-- ==== Sys2Proof/Machine/CodecOps.lean ====
section
/-! DEFINITION. The codec requests (40_codec.md R84, R85): no binding needed, no frame (R86). -/

namespace Sys2Proof.Machine

/-- BCDENC v (R84). -/
def execBcdenc (v : Byte) (s : State) : Host.Outcome State Fault Refusal :=
  accept (check (codecOk v) .codecRange (endRequest .ok [toBcd v])) s

/-- BCDDEC b (R85). -/
def execBcddec (b : Byte) (s : State) : Host.Outcome State Fault Refusal :=
  accept (endRequest .ok [fromBcd b]) s

end Sys2Proof.Machine
end

