-- ==== Sys2Proof/Machine/Framer.lean ====
section
/-! DEFINITION. INIT, RDREG, WRREG and the two wire commands (41_framer.md). -/

namespace Sys2Proof.Machine

/-- INIT xfer, cs (R95): a capability absent is a construction error, no event; else bind and de-assert chip-select. -/
def execInit (xfer cs : Bool) (s : State) : Host.Outcome State Fault Refusal :=
  accept
    (fun s =>
      if xfer && cs then { s with bound := true, seq := some .initIdle }
      else endRequest .constructionError [] { s with bound := false })
    s

/-- RDREG a, n (R96). -/
def execRdreg (a : RegAddr) (n : Byte) (s : State) : Host.Outcome State Fault Refusal :=
  accept
    (check s.bound .unbound
      (check (n != 0) .zeroLength
        (startRead a n.toNat .rdregData)))
    s

/-- WRREG a, n (R97). -/
def execWrreg (a : RegAddr) (n : Byte) (s : State) : Host.Outcome State Fault Refusal :=
  accept
    (check s.bound .unbound
      (check (n != 0) .zeroLength
        (check (s.dataSet n.toNat) .unsetData
          (startWrite a (s.dataBytes n.toNat) .wrregSent))))
    s

/-- Run the pending frame to its end (R90), or until a host action lands. -/
def runFrame (tx : List Byte) (p : Point) (s : State) : State :=
  run (eventsLeft (.frame tx .assert p)) { s with seq := some (.frame tx .assert p) }

/-- The wire command CMD_READ a (R92): the frame `[cmd(READ, a)] ++ fill(n, 0x00)` of the `n` payload bytes pending. -/
def execCmdRead (a : RegAddr) (s : State) : Host.Outcome State Fault Refusal :=
  match s.seq with
  | some (.frame (_ :: payload) .assert p) => .next (runFrame (readBuffer a payload.length) p s)
  | _ => .fault .noPendingFrame

/-- The wire command CMD_WRITE a (R93): the frame `[cmd(WRITE, a)] ++ v` of the payload pending. -/
def execCmdWrite (a : RegAddr) (s : State) : Host.Outcome State Fault Refusal :=
  match s.seq with
  | some (.frame (_ :: payload) .assert p) => .next (runFrame (writeBuffer a payload) p s)
  | _ => .fault .noPendingFrame

/-- An illegal request word (R69): accepted, then `ContractViolation(ILLEGAL_REQUEST)`. -/
def rejectIllegal (s : State) : Host.Outcome State Fault Refusal := accept (raiseViolation .illegalRequest) s

end Sys2Proof.Machine
end

