-- ==== Sys2Proof/Machine/RtcOps.lean ====
section
/-! DEFINITION. The derived register requests (42_rtc_ops.md) up to their first frame; Machine/Resume.lean holds the rest. -/

namespace Sys2Proof.Machine

/-- SWRST (R110). -/
def execSwrst (s : State) : Host.Outcome State Fault Refusal :=
  accept (check s.bound .unbound (startWrite PReg.control1.addr [s.cfg.resetMagic] .swrstSent)) s

/-- SETDT (R111). -/
def execSetdt (s : State) : Host.Outcome State Fault Refusal :=
  accept
    (check s.bound .unbound
      (check (s.dataSet 7) .unsetData
        (check ((s.dataBytes 7).all codecOk) .codecRange
          (startWrite PReg.seconds.addr ((s.dataBytes 7).map toBcd) .setdtSent))))
    s

/-- GETDT (R112). -/
def execGetdt (s : State) : Host.Outcome State Fault Refusal :=
  accept (check s.bound .unbound (startRead PReg.seconds.addr 1 .getdtSeconds)) s

/-- SETALM m (R113). -/
def execSetalm (m : BitVec 4) (s : State) : Host.Outcome State Fault Refusal :=
  accept
    (check s.bound .unbound
      (check (s.alarmSet m) .unsetData
        (check (s.alarmOk m) .codecRange
          (startRead PReg.control2.addr 1 (.setalmControl m)))))
    s

/-- GETIRQ (R114). -/
def execGetirq (s : State) : Host.Outcome State Fault Refusal :=
  accept (check s.bound .unbound (startRead PReg.control2.addr 1 .getirqByte)) s

/-- CLRAF (R115). -/
def execClraf (s : State) : Host.Outcome State Fault Refusal :=
  accept (check s.bound .unbound (startRead PReg.control2.addr 1 .clrafRead)) s

/-- CLRTF (R116). -/
def execClrtf (s : State) : Host.Outcome State Fault Refusal :=
  accept (check s.bound .unbound (startRead PReg.control2.addr 1 .clrtfRead)) s

/-- CLRALL (R117). -/
def execClrall (s : State) : Host.Outcome State Fault Refusal :=
  accept (check s.bound .unbound (startRead PReg.control2.addr 1 .clrallRead)) s

end Sys2Proof.Machine
end

