-- ==== Sys2Proof/Machine/Dispatch.lean ====
section
/-! DEFINITION. The dispatch of an instruction to its meaning: one arm per constructor. -/

namespace Sys2Proof.Machine

def exec (i : Instr) (s : State) : Host.Outcome State Fault Refusal :=
  match i with
  | .init xfer cs => Sys2Proof.Machine.execInit xfer cs s
  | .rdreg a n => Sys2Proof.Machine.execRdreg a n s
  | .wrreg a n => Sys2Proof.Machine.execWrreg a n s
  | .swrst => Sys2Proof.Machine.execSwrst s
  | .setdt => Sys2Proof.Machine.execSetdt s
  | .getdt => Sys2Proof.Machine.execGetdt s
  | .setalm m => Sys2Proof.Machine.execSetalm m s
  | .getirq => Sys2Proof.Machine.execGetirq s
  | .clraf => Sys2Proof.Machine.execClraf s
  | .clrtf => Sys2Proof.Machine.execClrtf s
  | .clrall => Sys2Proof.Machine.execClrall s
  | .bcdenc v => Sys2Proof.Machine.execBcdenc v s
  | .bcddec b => Sys2Proof.Machine.execBcddec b s
  | .cmdRead a => Sys2Proof.Machine.execCmdRead a s
  | .cmdWrite a => Sys2Proof.Machine.execCmdWrite a s

end Sys2Proof.Machine
end

