-- ==== Sys2Proof/Machine/Fetch.lean ====
section
/-! DEFINITION. Where the next instruction's encoding stands (there is no program counter, R26): the word of the host's REQ
write on an idle block (R28), the command byte of the frame about to start on a busy one (R90). And the host actions that
carry no instruction. -/

namespace Sys2Proof.Machine

/-- What the machine does next. -/
inductive Turn where
  /-- An idle block, no host action: it waits (R161). -/
  | wait
  /-- A host write to REQ reaches an idle block (R28). -/
  | request (w : ReqWord) (rest : List HostOp)
  /-- Another host action lands. -/
  | host (op : HostOp) (rest : List HostOp)
  /-- A busy block is about to send the command byte `c` of a frame (R90). -/
  | command (c : Byte)
  /-- A busy block is inside a frame, or before an event that is no frame: `k` events are left. -/
  | events (k : Nat)
  /-- A frame without a command byte: never produced (R62). -/
  | noCommand
deriving DecidableEq, Repr

/-- The turn of a busy block at a position (R26, R90). -/
def turnAt : SeqPos → Turn
  | .frame (c :: _) .assert _ => .command c
  | .frame [] .assert _ => .noCommand
  | pos => .events (eventsLeft pos)

/-- Which agent moves next (assumptions 1, 2): a host read or reset that is due lands at any time (R30, R161); a write to REQ or
DATA is held while the block is busy (R28, R29). -/
def State.turn (s : State) : Turn :=
  match s.seq with
  | none =>
    match s.hostIn with
    | [] => .wait
    | .writeReq w :: rest => .request w rest
    | op :: rest => .host op rest
  | some pos =>
    match s.hostIn with
    | .read 0 r :: rest => .host (.read 0 r) rest
    | .reset 0 :: rest => .host (.reset 0) rest
    | _ => turnAt pos

/-- A host action that is no request (R29, R30, R161). -/
def hostAction (op : HostOp) (s : State) : State :=
  match op with
  | .writeData i v => writeData i v s
  | .read _ r => hostRead r s
  | .reset _ => blockReset s
  | .writeReq w => { s with req := w }

/-- The word a host write puts into REQ (R20, R28). -/
def takeRequest (w : ReqWord) (rest : List HostOp) (s : State) : State := { s with req := w, hostIn := rest }

/-- Store a table word where the next step fetches it. 16 bits: the word of a host write to REQ on an idle block that is not
halted. 8 bits: the command byte of the frame of an RDREG or WRREG of one register, its payload byte zero, on a bound block
with chip-select de-asserted and no host action in between (assumption 12). -/
def placeWord (s : State) (nbits w : Nat) : State :=
  if nbits = 8 then
    let c : Byte := BitVec.ofNat 8 w
    { s with
      halted := false
      bound := true
      busy := true
      cs := .deasserted
      hostIn := []
      seq := some (.frame [c, 0] .assert (if c.getLsbD 7 then .rdregData else .wrregSent)) }
  else
    { s with
      halted := false
      busy := false
      seq := none
      hostIn := .writeReq (BitVec.ofNat 16 w) :: s.hostIn }

end Sys2Proof.Machine
end

