-- ==== Sys2Proof/Machine/Step.lean ====
section
/-! DEFINITION. One step of the machine (assumption 1): a host action lands, or the block runs. -/

namespace Sys2Proof.Machine

/-- One step. -/
def step (s : State) : Host.Outcome State Fault Refusal :=
  match s.turn with
  | .wait => .next s
  | .request w rest =>
    match decode (.req16 w) with
    | .ok i => exec i (takeRequest w rest s)
    | .error _ => rejectIllegal (takeRequest w rest s)
  | .host op rest => .next (hostAction op { s with hostIn := rest })
  | .command c =>
    match decode (.wire8 c) with
    | .ok i => exec i s
    | .error _ => .fault .badCommand
  | .events k => .next (run k s)
  | .noCommand => .fault .badCommand

/-- `s` with an instruction stored where `step` fetches its next one (see `placeWord`). -/
def State.withFetchWord (s : State) (nbits w : Nat) : State := placeWord s nbits w

end Sys2Proof.Machine
end

