-- ==== Sys2Proof/Machine/Assembler.lean ====
section
/-! DEFINITION. The spec's assembler (R72) and pseudo-instructions (R73), as the host actions a program stands for. -/

namespace Sys2Proof.Machine

/-- A line of a program (R72, R73). -/
inductive AsmLine where
  /-- A request. -/
  | request (i : Instr)
  /-- `.data b0, b1, ...` -/
  | data (bytes : List Byte)
  /-- `RD1 a` -/
  | rd1 (a : RegAddr)
  /-- `WR1 a, v` -/
  | wr1 (a : RegAddr) (v : Byte)
  /-- `SETALM_OFF` -/
  | setalmOff
deriving DecidableEq, Repr

/-- The REQ write of a request (R72). A wire command has no line in R72 and stands for no host action here (assumption 17,
DESIGN CHOICE). -/
def requestOps (i : Instr) : List HostOp :=
  match encode i with
  | .req16 w => [.writeReq w]
  | .wire8 _ => []

/-- `.data`: the bytes to `DATA[0]`, `DATA[1]`, ... (R72). DATA ends at `DATA[254]` (R20), and the spec does not say what a line of
more than 255 bytes means: the bytes beyond the 255th are dropped here (assumption 17, DESIGN CHOICE). -/
def dataOps (bytes : List Byte) : List HostOp :=
  List.zipWith (fun i v => .writeData i v) (List.finRange 255) bytes

/-- The host actions of a line (R72, R73). -/
def AsmLine.ops : AsmLine → List HostOp
  | .request i => requestOps i
  | .data bytes => dataOps bytes
  | .rd1 a => requestOps (.rdreg a 1)
  | .wr1 a v => dataOps [v] ++ requestOps (.wrreg a 1)
  | .setalmOff => requestOps (.setalm 0)

/-- The host actions of a program. -/
def assemble (program : List AsmLine) : List HostOp := program.flatMap AsmLine.ops

end Sys2Proof.Machine
end

