-- ==== Sys2Proof/Safety.lean ====
section
/-! DEFINITION. What a safe state is: the rules of the spec that hold between any two steps, the chip-select discipline of the
event trace above all (R51, R90, R98). And the premises the statements use. -/

namespace Sys2Proof.Machine

/-- Where a trace ends with respect to frames (R90): outside, after `CS(ASSERT)`, or after the frame's transfer. -/
inductive Line where
  | outside
  | opened
  | transferred
deriving DecidableEq, Repr

/-- Has an answer exactly `n` bytes, or is it a timeout (R91)? -/
def Answer.fits (n : Nat) : Answer → Bool
  | .ok rx => rx.length == n
  | .timeout => true

/-- What may follow in a trace (R90, R98): a frame is `CS(ASSERT)`, one transfer of a well-formed buffer, `CS(DEASSERT)`;
outside a frame a de-assertion (INIT, R95) or the hook (R143). -/
def Line.next : Line → Event → Option Line
  | .outside, .cs .assert => some .opened
  | .outside, .cs .deassert => some .outside
  | .outside, .hook _ => some .outside
  | .opened, .xfer tx n _ r =>
    if TxBuffer.wellFormed tx && n == tx.length && Answer.fits n r then some .transferred else none
  | .transferred, .cs .deassert => some .outside
  | .outside, .xfer _ _ _ _ => none
  | .opened, .cs _ => none
  | .opened, .hook _ => none
  | .transferred, .cs .assert => none
  | .transferred, .xfer _ _ _ _ => none
  | .transferred, .hook _ => none

/-- Where a trace ends, if every event of it may stand where it stands. -/
def scan (trace : List Event) : Option Line := trace.foldlM Line.next .outside

/-- Where the sequencer is with respect to frames. -/
def lineAt : Option SeqPos → Line
  | some (.frame _ .xfer _) => .opened
  | some (.frame _ (.deassert _) _) => .transferred
  | some (.frame _ .assert _) => .outside
  | some (.hook _) => .outside
  | some .initIdle => .outside
  | none => .outside

/-- A position the block can be in: a frame has a well-formed buffer (R62, R63), an answer of its length (R91) and a bound
block (R22); INIT has bound it (R95); a hook has a cause (R141). -/
def posOk (bound : Bool) : SeqPos → Bool
  | .hook c => c != .noCause
  | .initIdle => bound
  | .frame tx .assert _ => bound && TxBuffer.wellFormed tx
  | .frame tx .xfer _ => bound && TxBuffer.wellFormed tx
  | .frame tx (.deassert r) _ => bound && TxBuffer.wellFormed tx && Answer.fits tx.length r

/-- A safe state. -/
structure Safe (s : State) : Prop where
  /-- BUSY is 1 while a request executes (R23). -/
  busy_seq : s.busy = s.seq.isSome
  /-- The position is one the block can be in. -/
  pos_ok : ∀ p, s.seq = some p → posOk s.bound p = true
  /-- The trace is made of whole frames, but for the one in progress (R90, R98). -/
  trace_ok : scan s.trace = some (lineAt s.seq)
  /-- CS is asserted inside a frame and nowhere else (R51). -/
  cs_line : s.cs = .asserted ↔ lineAt s.seq ≠ .outside
  /-- After INIT the level is known (R24). -/
  cs_known : s.bound = true → s.seq ≠ some .initIdle → s.cs ≠ .unknown
  /-- A halted block has a cause, the code CONTRACT_VIOLATION and no request in progress (R143, R146). -/
  halted_cause : s.halted = true ↔ s.haltCause ≠ .noCause
  halted_code : s.halted = true ↔ s.code = .contractViolation
  halted_idle : s.halted = true → s.seq = none
  /-- The masks have the form R7 asks for. -/
  cfg_ok : s.cfg.wellFormed = true

/-- No read and no reset of the host lands during the next request (R30, R161; assumption 2). -/
def State.undisturbed (s : State) : Bool :=
  match s.hostIn with
  | .read _ _ :: _ => false
  | .reset _ :: _ => false
  | _ => true

/-- The block can accept a request (R28), and no read or reset lands before it ends. -/
structure Ready (s : State) : Prop where
  not_halted : s.halted = false
  not_busy : s.busy = false
  undisturbed : s.undisturbed = true

/-- What no request changes (R30): DATA and DSET, REQ, the parameters, the host's coming actions and the reads it made. -/
structure KeepsInputs (s t : State) : Prop where
  data : t.data = s.data
  dset : t.dset = s.dset
  req : t.req = s.req
  cfg : t.cfg = s.cfg
  hostIn : t.hostIn = s.hostIn
  hostReads : t.hostReads = s.hostReads

/-- What no request but INIT and a violation changes: BOUND, HALTED, HALT_CAUSE. -/
structure KeepsStanding (s t : State) : Prop where
  bound : t.bound = s.bound
  halted : t.halted = s.halted
  haltCause : t.haltCause = s.haltCause

/-- The request has ended (R28): its outcome, its results in `RES[0..RES_LEN-1]` (R31), its events; the transport has given
`n` answers. -/
structure Ended (s t : State) (c : Code) (bytes : List Byte) (evs : List Event) (n : Nat) : Prop where
  busy : t.busy = false
  seq : t.seq = none
  code : t.code = c
  resLen : t.resLen.toNat = bytes.length
  res : t.res.toList.take bytes.length = bytes
  trace : t.trace = s.trace ++ evs
  answers : t.answers = s.answers.drop n

/-- Instruction `i` runs from `s` to its end, without a violation: outcome, results, events, answers taken, OSF_SEEN, CS; all
else is unchanged. -/
def Completes (i : Instr) (s : State) (c : Code) (bytes : List Byte) (evs : List Event) (n : Nat) (osf : Bool) (cs : CsLevel) :
    Prop :=
  ∃ t, exec i s = .next t ∧ Ended s t c bytes evs n ∧ KeepsInputs s t ∧ KeepsStanding s t ∧ t.osfSeen = osf ∧ t.cs = cs

/-- The outcome is a contract violation (R143): the one event is the hook, CS and BOUND are unchanged. -/
def HaltsWith (o : Host.Outcome State Fault Refusal) (s : State) (c : Cause) : Prop :=
  ∃ t, o = .next t ∧ Ended s t .contractViolation [] [.hook c] 0 ∧ KeepsInputs s t ∧ t.halted = true ∧ t.haltCause = c
    ∧ t.bound = s.bound ∧ t.osfSeen = false ∧ t.cs = s.cs

/-- The events of one frame (R90): `CS(ASSERT)`, the transfer with its answer (R91), `CS(DEASSERT)`. -/
def frameEvents (s : State) (tx : List Byte) (r : Answer) : List Event :=
  [.cs .assert, .xfer tx tx.length s.cfg.xferTimeout r, .cs .deassert]

/-- The request `i`, its checks (R144) met in `s`, sends `tx` first (R96, R97, R110 to R117). -/
inductive FirstFrame (s : State) : Instr → List Byte → Prop where
  | rdreg (a : RegAddr) (n : Byte) (h : n ≠ 0) :
      FirstFrame s (.rdreg a n) ((0x90#8 ||| a.zeroExtend 8) :: List.replicate n.toNat 0#8)
  | wrreg (a : RegAddr) (n : Byte) (h : n ≠ 0) (hd : ∀ k (_ : k < 255), k < n.toNat → s.dset[k] = true) :
      FirstFrame s (.wrreg a n) ((0x10#8 ||| a.zeroExtend 8) :: s.data.toList.take n.toNat)
  | swrst : FirstFrame s .swrst [0x10#8, s.cfg.resetMagic]
  | setdt (hd : ∀ k (_ : k < 255), k < 7 → s.dset[k] = true) (hv : ∀ k (_ : k < 255), k < 7 → s.data[k].toNat ≤ 99) :
      FirstFrame s .setdt (0x12#8 :: (s.data.toList.take 7).map toBcd)
  | getdt : FirstFrame s .getdt [0x92#8, 0#8]
  | setalm (m : BitVec 4) (hd : ∀ k : Fin 4, m.getLsbD k.val = true → s.dset[k.val] = true)
      (hv : ∀ k : Fin 4, m.getLsbD k.val = true → s.data[k.val].toNat ≤ 99) : FirstFrame s (.setalm m) [0x91#8, 0#8]
  | getirq : FirstFrame s .getirq [0x91#8, 0#8]
  | clraf : FirstFrame s .clraf [0x91#8, 0#8]
  | clrtf : FirstFrame s .clrtf [0x91#8, 0#8]
  | clrall : FirstFrame s .clrall [0x91#8, 0#8]

/-- Two answers that differ in the echoed byte `rx[0]` at most (R44). -/
def SameButEcho : Answer → Answer → Prop
  | .ok a, .ok b => a.tail = b.tail
  | .timeout, .timeout => True
  | .ok _, .timeout => False
  | .timeout, .ok _ => False

end Sys2Proof.Machine
end

