-- ==== Sys2Proof/Certificates/Slice0/Obligations.lean ====
section
/-! DEFINITION. The statements for the provers. -/

open Sys2Proof Sys2Proof.Machine

/-! The codec (40_codec.md). -/

/-- R84 with R80's formula: BCDENC of a value up to 99 leaves the packed BCD byte in `RES[0]`, emits nothing and needs no
binding (R86). -/
def Obligations.BcdEncodeGivesPackedBcd : Prop :=
  ∀ (v : Byte) (s : State), Ready s → v.toNat ≤ 99 →
    Completes (.bcdenc v) s .ok [BitVec.ofNat 8 (v.toNat / 10 * 16 + v.toNat % 10)] [] 0 false s.cs

/-- R84's exception: BCDENC of a value above 99 halts with CODEC_RANGE. -/
def Obligations.BcdEncodeAbove99Halts : Prop :=
  ∀ (v : Byte) (s : State), Ready s → 99 < v.toNat → HaltsWith (exec (.bcdenc v) s) s .codecRange

/-- R85 with R81's formula: BCDDEC of any byte leaves tens times 10 plus ones in `RES[0]`, emits nothing and needs no binding. -/
def Obligations.BcdDecodeGivesTensAndOnes : Prop :=
  ∀ (b : Byte) (s : State), Ready s →
    Completes (.bcddec b) s .ok [BitVec.ofNat 8 (b.toNat / 16 * 10 + b.toNat % 16)] [] 0 false s.cs

/-- R82. -/
def Obligations.BcdRoundTrip : Prop := ∀ v : Byte, v.toNat ≤ 99 → fromBcd (toBcd v) = v

/-- R83: a byte survives decoding and encoding exactly when both nibbles are at most 9; the other 156 bytes decode above 99 or
re-encode to another byte; `from_bcd` is not injective. -/
def Obligations.BcdConverseNeedsDecimalNibbles : Prop :=
  (∀ b : Byte, ((fromBcd b).toNat ≤ 99 ∧ toBcd (fromBcd b) = b) ↔ (b.toNat / 16 ≤ 9 ∧ b.toNat % 16 ≤ 9))
    ∧ ((List.finRange 256).filter fun b => decide (9 < b.val / 16 ∨ 9 < b.val % 16)).length = 156
    ∧ fromBcd 0x0A = 10 ∧ fromBcd 0x10 = 10 ∧ toBcd 10 = 0x10

/-! INIT, RDREG, WRREG and the wire commands (41_framer.md). -/

/-- R95: INIT with both capabilities binds the block and de-asserts chip-select once. -/
def Obligations.InitBindsAndDeasserts : Prop :=
  ∀ s : State, Ready s →
    ∃ t, exec (.init true true) s = .next t ∧ Ended s t .ok [] [.cs .deassert] 0 ∧ KeepsInputs s t ∧ t.bound = true
      ∧ t.cs = .deasserted ∧ t.halted = s.halted ∧ t.haltCause = s.haltCause ∧ t.osfSeen = false

/-- R95: INIT with a capability absent is a construction error: BOUND is 0, no event, the block goes on. -/
def Obligations.InitWithoutCapabilityUnbinds : Prop :=
  ∀ (x c : Bool) (s : State), Ready s → (x && c) = false →
    ∃ t, exec (.init x c) s = .next t ∧ Ended s t .constructionError [] [] 0 ∧ KeepsInputs s t ∧ t.bound = false
      ∧ t.cs = s.cs ∧ t.halted = s.halted ∧ t.haltCause = s.haltCause ∧ t.osfSeen = false

/-- R96 with R62 and R92: RDREG sends the read command and `n` fillers in one frame and returns the `n` bytes after the
echo. -/
def Obligations.RdregReturnsTheBytesAfterTheEcho : Prop :=
  ∀ (a : RegAddr) (n e : Byte) (b : List Byte) (s : State), Ready s → s.bound = true → n ≠ 0 →
    s.answerNo 0 (n.toNat + 1) = .ok (e :: b) →
    Completes (.rdreg a n) s .ok b
      (frameEvents s ((0x90#8 ||| a.zeroExtend 8) :: List.replicate n.toNat 0#8) (.ok (e :: b))) 1 false .deasserted

/-- R97 with R62 and R93: WRREG sends the write command and `DATA[0..n-1]` in one frame and discards the answer. -/
def Obligations.WrregSendsDataAsGiven : Prop :=
  ∀ (a : RegAddr) (n : Byte) (rx : List Byte) (s : State), Ready s → s.bound = true → n ≠ 0 →
    (∀ k (_ : k < 255), k < n.toNat → s.dset[k] = true) → s.answerNo 0 (n.toNat + 1) = .ok rx →
    Completes (.wrreg a n) s .ok []
      (frameEvents s ((0x10#8 ||| a.zeroExtend 8) :: s.data.toList.take n.toNat) (.ok rx)) 1 false .deasserted

/-- R70: count 0 of RDREG and WRREG on a bound block halts with ZERO_LENGTH, whatever DATA holds (R144). -/
def Obligations.ZeroCountHalts : Prop :=
  ∀ (a : RegAddr) (s : State), Ready s → s.bound = true →
    HaltsWith (exec (.rdreg a 0) s) s .zeroLength ∧ HaltsWith (exec (.wrreg a 0) s) s .zeroLength

/-- Assumption 10 (the model's choice): a wire command runs the frame that waits, with the address and the direction of its own
byte, whatever byte the pending buffer begins with, and only the length of the pending payload. So run, the frame is that of R92,
`[cmd(READ, a)] ++ fill(n, 0)`; the request it belongs to goes on, and RDREG's ends with the bytes after the echo (R96). -/
def Obligations.CmdReadRunsThePendingFrame : Prop :=
  ∀ (a : RegAddr) (c e : Byte) (payload b : List Byte) (p : Point) (s : State),
    s.undisturbed = true → s.seq = some (.frame (c :: payload) .assert p) → payload.length ≤ 255 →
    s.answerNo 0 (payload.length + 1) = .ok (e :: b) →
    ∃ t, exec (.cmdRead a) s = .next t
      ∧ t.trace = s.trace
          ++ frameEvents s ((0x90#8 ||| a.zeroExtend 8) :: List.replicate payload.length 0#8) (.ok (e :: b))
      ∧ t.cs = .deasserted ∧ t.answers = s.answers.drop 1 ∧ KeepsInputs s t ∧ KeepsStanding s t
      ∧ (p = .rdregData →
          Ended s t .ok b
            (frameEvents s ((0x90#8 ||| a.zeroExtend 8) :: List.replicate payload.length 0#8) (.ok (e :: b))) 1)

/-- Assumption 10 (the model's choice): a wire command runs the frame that waits, with the address and the direction of its own
byte, whatever byte the pending buffer begins with, and the pending payload. So run, the frame is that of R93,
`[cmd(WRITE, a)] ++ v`; the answer is discarded, and WRREG ends (R97). -/
def Obligations.CmdWriteRunsThePendingFrame : Prop :=
  ∀ (a : RegAddr) (c : Byte) (payload rx : List Byte) (p : Point) (s : State),
    s.undisturbed = true → s.seq = some (.frame (c :: payload) .assert p) →
    s.answerNo 0 (payload.length + 1) = .ok rx →
    ∃ t, exec (.cmdWrite a) s = .next t
      ∧ t.trace = s.trace ++ frameEvents s ((0x10#8 ||| a.zeroExtend 8) :: payload) (.ok rx)
      ∧ t.cs = .deasserted ∧ t.answers = s.answers.drop 1 ∧ KeepsInputs s t ∧ KeepsStanding s t
      ∧ (p = .wrregSent → Ended s t .ok [] (frameEvents s ((0x10#8 ||| a.zeroExtend 8) :: payload) (.ok rx)) 1)

/-- Assumption 10 (the model's choice): a wire command runs the frame that waits, whichever direction that frame has. Whichever
of the two runs it, its timeout ends the request as R142 says (R92, R93). -/
def Obligations.CommandTimeoutEndsTheRequest : Prop :=
  ∀ (a : RegAddr) (c : Byte) (payload : List Byte) (p : Point) (s : State),
    s.undisturbed = true → s.seq = some (.frame (c :: payload) .assert p) →
    s.answerNo 0 (payload.length + 1) = .timeout →
    Completes (.cmdRead a) s .timeout []
        (frameEvents s ((0x90#8 ||| a.zeroExtend 8) :: List.replicate payload.length 0#8) .timeout) 1 s.osfSeen .deasserted
      ∧ Completes (.cmdWrite a) s .timeout []
        (frameEvents s ((0x10#8 ||| a.zeroExtend 8) :: payload) .timeout) 1 s.osfSeen .deasserted

/-- R91: a listed answer of the transfer's length reaches the block as it is; every answer has that length or is a timeout. -/
def Obligations.AnswersHaveTheTransferLength : Prop :=
  (∀ (s : State) (rx : List Byte) (rest : List Answer), s.answers = .ok rx :: rest → s.answerNo 0 rx.length = .ok rx)
    ∧ ∀ (s : State) (k n : Nat) (rx : List Byte), s.answerNo k n = .ok rx → rx.length = n

/-! The derived requests (42_rtc_ops.md). -/

/-- R110, R162: SWRST writes the magic byte to control_1 in one frame and changes nothing else of the block. -/
def Obligations.SwrstWritesTheMagicByte : Prop :=
  ∀ (rx : List Byte) (s : State), Ready s → s.bound = true → s.answerNo 0 2 = .ok rx →
    Completes .swrst s .ok [] (frameEvents s [0x10#8, s.cfg.resetMagic] (.ok rx)) 1 false .deasserted

/-- R111: SETDT writes the seven encoded fields in one frame from the seconds register; no calendar check (R5). -/
def Obligations.SetdtWritesSevenEncodedFields : Prop :=
  ∀ (rx : List Byte) (s : State), Ready s → s.bound = true →
    (∀ k (_ : k < 255), k < 7 → s.dset[k] = true) → (∀ k (_ : k < 255), k < 7 → s.data[k].toNat ≤ 99) →
    s.answerNo 0 8 = .ok rx →
    Completes .setdt s .ok [] (frameEvents s (0x12#8 :: (s.data.toList.take 7).map toBcd) (.ok rx)) 1 false .deasserted

/-- R112: GETDT with the oscillator flag clear is two read frames, and the seven masked bytes are decoded. -/
def Obligations.GetdtWithFlagClearReadsTwice : Prop :=
  ∀ (e sec e' : Byte) (b : List Byte) (s : State), Ready s → s.bound = true →
    s.answerNo 0 2 = .ok [e, sec] → sec &&& s.cfg.osfMask = 0 → s.answerNo 1 8 = .ok (e' :: b) →
    Completes .getdt s .ok (List.zipWith (fun v m => fromBcd (v &&& m)) b s.cfg.getdtMask.toList)
      (frameEvents s [0x92#8, 0#8] (.ok [e, sec]) ++ frameEvents s (0x92#8 :: List.replicate 7 0#8) (.ok (e' :: b)))
      2 false .deasserted

/-- R112: GETDT with the oscillator flag seen makes exactly one corrective write, of the byte read with the flag cleared,
before the 7-byte read, and sets OSF_SEEN. -/
def Obligations.GetdtWithFlagSeenAcknowledgesOnce : Prop :=
  ∀ (e sec e' : Byte) (rx b : List Byte) (s : State), Ready s → s.bound = true →
    s.answerNo 0 2 = .ok [e, sec] → sec &&& s.cfg.osfMask ≠ 0 → s.answerNo 1 2 = .ok rx →
    s.answerNo 2 8 = .ok (e' :: b) →
    Completes .getdt s .ok (List.zipWith (fun v m => fromBcd (v &&& m)) b s.cfg.getdtMask.toList)
      (frameEvents s [0x92#8, 0#8] (.ok [e, sec]) ++ frameEvents s [0x12#8, sec &&& ~~~s.cfg.osfMask] (.ok rx)
        ++ frameEvents s (0x92#8 :: List.replicate 7 0#8) (.ok (e' :: b)))
      3 true .deasserted

/-- R112, R32, R142: a timeout of GETDT's corrective write or of its 7-byte read keeps OSF_SEEN; no later frame is sent. -/
def Obligations.GetdtTimeoutKeepsOsfSeen : Prop :=
  ∀ (e sec : Byte) (s : State), Ready s → s.bound = true → s.answerNo 0 2 = .ok [e, sec] →
    sec &&& s.cfg.osfMask ≠ 0 →
    (s.answerNo 1 2 = .timeout →
      Completes .getdt s .timeout []
        (frameEvents s [0x92#8, 0#8] (.ok [e, sec]) ++ frameEvents s [0x12#8, sec &&& ~~~s.cfg.osfMask] .timeout)
        2 true .deasserted)
    ∧ ∀ rx, s.answerNo 1 2 = .ok rx → s.answerNo 2 8 = .timeout →
      Completes .getdt s .timeout []
        (frameEvents s [0x92#8, 0#8] (.ok [e, sec]) ++ frameEvents s [0x12#8, sec &&& ~~~s.cfg.osfMask] (.ok rx)
          ++ frameEvents s (0x92#8 :: List.replicate 7 0#8) .timeout)
        3 true .deasserted

/-- R113, R118: SETALM is six frames: control_2 read, control_2 written with AF cleared and AIE set, and the four alarm
registers, each encoded or disabled. -/
def Obligations.SetalmWritesControlThenFourAlarms : Prop :=
  ∀ (m : BitVec 4) (e r : Byte) (w1 w2 w3 w4 w5 : List Byte) (s : State), Ready s → s.bound = true →
    (∀ k : Fin 4, m.getLsbD k.val = true → s.dset[k.val] = true) →
    (∀ k : Fin 4, m.getLsbD k.val = true → s.data[k.val].toNat ≤ 99) →
    s.answerNo 0 2 = .ok [e, r] → s.answerNo 1 2 = .ok w1 → s.answerNo 2 2 = .ok w2 → s.answerNo 3 2 = .ok w3 →
    s.answerNo 4 2 = .ok w4 → s.answerNo 5 2 = .ok w5 →
    Completes (.setalm m) s .ok []
      (frameEvents s [0x91#8, 0#8] (.ok [e, r])
        ++ frameEvents s [0x11#8, (r &&& ~~~s.cfg.afMask) ||| s.cfg.aieMask] (.ok w1)
        ++ frameEvents s [0x19#8, if m.getLsbD 0 then toBcd s.data[0] else 0x80#8] (.ok w2)
        ++ frameEvents s [0x1A#8, if m.getLsbD 1 then toBcd s.data[1] else 0x80#8] (.ok w3)
        ++ frameEvents s [0x1B#8, if m.getLsbD 2 then toBcd s.data[2] else 0x80#8] (.ok w4)
        ++ frameEvents s [0x1C#8, if m.getLsbD 3 then toBcd s.data[3] else 0x80#8] (.ok w5))
      6 false .deasserted

/-- R114: GETIRQ returns the raw control_2 byte. -/
def Obligations.GetirqReturnsRawControl2 : Prop :=
  ∀ (e r : Byte) (s : State), Ready s → s.bound = true → s.answerNo 0 2 = .ok [e, r] →
    Completes .getirq s .ok [r] (frameEvents s [0x91#8, 0#8] (.ok [e, r])) 1 false .deasserted

/-- R115: CLRAF reads control_2 and writes it back with AF cleared, always. -/
def Obligations.ClrafClearsOnlyTheAlarmFlag : Prop :=
  ∀ (e r : Byte) (rx : List Byte) (s : State), Ready s → s.bound = true →
    s.answerNo 0 2 = .ok [e, r] → s.answerNo 1 2 = .ok rx →
    Completes .clraf s .ok []
      (frameEvents s [0x91#8, 0#8] (.ok [e, r]) ++ frameEvents s [0x11#8, r &&& ~~~s.cfg.afMask] (.ok rx))
      2 false .deasserted

/-- R116: CLRTF reads control_2 and writes it back with TF cleared, always. -/
def Obligations.ClrtfClearsOnlyTheTimerFlag : Prop :=
  ∀ (e r : Byte) (rx : List Byte) (s : State), Ready s → s.bound = true →
    s.answerNo 0 2 = .ok [e, r] → s.answerNo 1 2 = .ok rx →
    Completes .clrtf s .ok []
      (frameEvents s [0x91#8, 0#8] (.ok [e, r]) ++ frameEvents s [0x11#8, r &&& ~~~s.cfg.tfMask] (.ok rx))
      2 false .deasserted

/-- R117: CLRALL reads control_2 and writes it back with AF, TF and MSF set, always. -/
def Obligations.ClrallSetsThreeFlags : Prop :=
  ∀ (e r : Byte) (rx : List Byte) (s : State), Ready s → s.bound = true →
    s.answerNo 0 2 = .ok [e, r] → s.answerNo 1 2 = .ok rx →
    Completes .clrall s .ok []
      (frameEvents s [0x91#8, 0#8] (.ok [e, r])
        ++ frameEvents s [0x11#8, r ||| s.cfg.afMask ||| s.cfg.tfMask ||| s.cfg.msfMask] (.ok rx))
      2 false .deasserted

/-- R115, R116, R42: the register writes CLRAF and CLRTF ask for: control_2 alone, its own flag (AF, TF) cleared and every other
bit as it was read; the masks being distinct (R7), the other three named flags are so too. -/
def Obligations.ClearingAFlagTouchesNoOtherBit : Prop :=
  ∀ (e r : Byte) (rx : List Byte) (s : State), s.cfg.wellFormed = true → Ready s → s.bound = true →
    s.answerNo 0 2 = .ok [e, r] → s.answerNo 1 2 = .ok rx →
    (∃ t v evs, exec .clraf s = .next t ∧ t.trace = s.trace ++ evs
      ∧ evs.flatMap Event.registerWrites = [(PReg.control2.addr, v)]
      ∧ v &&& s.cfg.afMask = 0 ∧ v &&& ~~~s.cfg.afMask = r &&& ~~~s.cfg.afMask
      ∧ v &&& s.cfg.tfMask = r &&& s.cfg.tfMask ∧ v &&& s.cfg.msfMask = r &&& s.cfg.msfMask
      ∧ v &&& s.cfg.aieMask = r &&& s.cfg.aieMask)
    ∧ ∃ t v evs, exec .clrtf s = .next t ∧ t.trace = s.trace ++ evs
      ∧ evs.flatMap Event.registerWrites = [(PReg.control2.addr, v)]
      ∧ v &&& s.cfg.tfMask = 0 ∧ v &&& ~~~s.cfg.tfMask = r &&& ~~~s.cfg.tfMask
      ∧ v &&& s.cfg.afMask = r &&& s.cfg.afMask ∧ v &&& s.cfg.msfMask = r &&& s.cfg.msfMask
      ∧ v &&& s.cfg.aieMask = r &&& s.cfg.aieMask

/-- R42, R111: the register writes SETDT asks for are the seven date-time registers in order, each with its field encoded. -/
def Obligations.SetdtAddressesTheDatetimeRegisters : Prop :=
  ∀ (rx : List Byte) (s : State), Ready s → s.bound = true →
    (∀ k (_ : k < 255), k < 7 → s.dset[k] = true) → (∀ k (_ : k < 255), k < 7 → s.data[k].toNat ≤ 99) →
    s.answerNo 0 8 = .ok rx →
    ∃ t evs, exec .setdt s = .next t ∧ t.trace = s.trace ++ evs
      ∧ evs.flatMap Event.registerWrites =
          [(PReg.seconds.addr, toBcd s.data[0]), (PReg.minutes.addr, toBcd s.data[1]), (PReg.hours.addr, toBcd s.data[2]),
            (PReg.days.addr, toBcd s.data[3]), (PReg.weekdays.addr, toBcd s.data[4]), (PReg.months.addr, toBcd s.data[5]),
            (PReg.years.addr, toBcd s.data[6])]

/-! Errors (60_exceptions.md). -/

/-- R142, R94: a timeout of a request's first frame ends it: one frame, outcome TIMEOUT, RES_LEN 0, no hook, not halted. -/
def Obligations.FirstFrameTimeoutEndsTheRequest : Prop :=
  ∀ (i : Instr) (tx : List Byte) (s : State), Ready s → s.bound = true → FirstFrame s i tx →
    s.answerNo 0 tx.length = .timeout →
    Completes i s .timeout [] (frameEvents s tx .timeout) 1 false .deasserted

/-- R94, R142: a request's outcome is TIMEOUT exactly when its last transfer timed out, and no transfer before it did: nothing
is retried and nothing follows a timeout. -/
def Obligations.TimeoutIsNeverRetried : Prop :=
  ∀ (i : Instr) (s : State), i.isRequest = true → Ready s →
    ∃ t evs, exec i s = .next t ∧ t.trace = s.trace ++ evs
      ∧ (t.code = .timeout ↔ ∃ pre tx n p, evs = pre ++ [.xfer tx n p .timeout, .cs .deassert])
      ∧ ∀ pre post tx n p, evs = pre ++ .xfer tx n p .timeout :: post → post = [.cs .deassert]

/-- R22, R141, R144: every request but INIT, BCDENC and BCDDEC on an unbound block halts with UNBOUND, whatever its operands. -/
def Obligations.UnboundRequestHalts : Prop :=
  ∀ (i : Instr) (s : State), i.isRequest = true → (∀ x c, i ≠ .init x c) → (∀ v, i ≠ .bcdenc v) → (∀ b, i ≠ .bcddec b) →
    Ready s → s.bound = false → HaltsWith (exec i s) s .unbound

/-- R29, R67, R144: a request that consumes a DATA byte the host has not written halts with UNSET_DATA, whatever the values. -/
def Obligations.UnsetDataHalts : Prop :=
  ∀ (s : State), Ready s → s.bound = true →
    (∀ (a : RegAddr) (n : Byte) k (_ : k < 255), k < n.toNat → s.dset[k] = false →
      HaltsWith (exec (.wrreg a n) s) s .unsetData)
    ∧ (∀ k (_ : k < 255), k < 7 → s.dset[k] = false → HaltsWith (exec .setdt s) s .unsetData)
    ∧ ∀ (m : BitVec 4) (k : Fin 4), m.getLsbD k.val = true → s.dset[k.val] = false →
      HaltsWith (exec (.setalm m) s) s .unsetData

/-- R80, R111, R113, R144: with its DATA written, SETDT with a field above 99, or SETALM with an enabled one, halts with
CODEC_RANGE before any frame. -/
def Obligations.FieldAbove99Halts : Prop :=
  ∀ (s : State), Ready s → s.bound = true →
    ((∀ k (_ : k < 255), k < 7 → s.dset[k] = true) → ∀ k (_ : k < 255), k < 7 → 99 < s.data[k].toNat →
      HaltsWith (exec .setdt s) s .codecRange)
    ∧ ∀ (m : BitVec 4), (∀ k : Fin 4, m.getLsbD k.val = true → s.dset[k.val] = true) →
      ∀ k : Fin 4, m.getLsbD k.val = true → 99 < s.data[k.val].toNat → HaltsWith (exec (.setalm m) s) s .codecRange

/-- R69: the illegal words are those with opcode 0x0, 0xE or 0xF or a nonzero must-be-zero bit of R65, and a write of one to
REQ of an idle block halts it with ILLEGAL_REQUEST, bound or not, the hook its only event. -/
def Obligations.IllegalWordHalts : Prop :=
  (∀ w : ReqWord, (∃ e, decode (.req16 w) = .error e) ↔
    (let op := w.toNat / 4096
     let reg := w.toNat / 256 % 16
     let imm := w.toNat % 256
     op = 0 ∨ op = 14 ∨ op = 15 ∨ (op = 1 ∧ (reg ≠ 0 ∨ 4 ≤ imm)) ∨ (op = 7 ∧ (reg ≠ 0 ∨ 16 ≤ imm))
      ∨ ((op = 4 ∨ op = 5 ∨ op = 6 ∨ op = 8 ∨ op = 9 ∨ op = 10 ∨ op = 11) ∧ (reg ≠ 0 ∨ imm ≠ 0))
      ∨ ((op = 12 ∨ op = 13) ∧ reg ≠ 0)))
    ∧ ∀ (s : State) (w : ReqWord) (rest : List HostOp) (e : Reject), s.seq = none → s.hostIn = .writeReq w :: rest →
      Ready { s with req := w, hostIn := rest } → decode (.req16 w) = .error e →
      HaltsWith (step s) { s with req := w, hostIn := rest } .illegalRequest

/-- R28, R146: a request has no step on a halted block, nor on a busy one; on any other block it has one. -/
def Obligations.RequestStepsUnlessHaltedOrBusy : Prop :=
  ∀ (i : Instr) (s : State), i.isRequest = true →
    (s.halted = true → exec i s = .fault .stuckHalted)
    ∧ (s.halted = false → s.busy = true → exec i s = .fault .heldBusy)
    ∧ (s.halted = false → s.busy = false → ∃ t, exec i s = .next t)

/-- R146: halting is permanent: on a halted block a write to REQ has no step, and every other step but block reset keeps
HALTED, HALT_CAUSE and STATUS and emits no event; the host may still read. -/
def Obligations.HaltIsPermanent : Prop :=
  ∀ (s : State), Safe s → s.halted = true →
    (∀ w rest, s.hostIn = .writeReq w :: rest → step s = .fault .stuckHalted)
    ∧ (∀ n r rest, s.hostIn = .read n r :: rest → ∃ t, step s = .next t)
    ∧ ∀ t, step s = .next t → (∀ n rest, s.hostIn ≠ .reset n :: rest) →
      t.halted = true ∧ t.haltCause = s.haltCause ∧ t.statusByte = s.statusByte ∧ t.trace = s.trace

/-- R140: every request of an idle block that nothing disturbs ends, in one of the four outcomes; a contract violation halts,
the others do not; only INIT makes a construction error. -/
def Obligations.EveryRequestEndsInOneOutcome : Prop :=
  ∀ (i : Instr) (s : State), i.isRequest = true → Ready s →
    ∃ t, exec i s = .next t ∧ t.busy = false ∧ t.seq = none ∧ (t.halted = true ↔ t.code = .contractViolation)
      ∧ (t.code = .constructionError → ∃ x c, i = .init x c ∧ t.bound = false)
      ∧ (t.code ≠ .ok → t.resLen = 0)

/-! The host's port (10_state.md, 70_reset_and_hazards.md). -/

/-- R29: a host write to DATA lands on a block with no request in progress, halted or not: the byte and its DSET bit, no
event. -/
def Obligations.DataWriteSetsByteAndDset : Prop :=
  ∀ (s : State) (i : Fin 255) (v : Byte) (rest : List HostOp), s.seq = none → s.hostIn = .writeData i v :: rest →
    step s = .next { s with data := s.data.set i.val v, dset := s.dset.set i.val true, hostIn := rest }

/-- R28, R29: while a request is in progress a write to REQ or DATA is held: the block runs and the write keeps waiting. -/
def Obligations.WritesAreHeldWhileBusy : Prop :=
  ∀ (s t : State) (op : HostOp) (rest : List HostOp), s.seq ≠ none → s.hostIn = op :: rest →
    ((∃ w, op = .writeReq w) ∨ ∃ i v, op = .writeData i v) → step s = .next t →
    t.hostIn = s.hostIn ∧ t.data = s.data ∧ t.dset = s.dset ∧ t.req = s.req

/-- R30: a host read due lands at any time, between two events of a request too, halted or not, and changes nothing of the
block; it returns STATUS, HALT_CAUSE, RES_LEN or `RES[i]` below RES_LEN. What a read beyond RES_LEN returns is free. -/
def Obligations.HostReadsAreSideEffectFree : Prop :=
  ∀ (s : State) (n : Nat) (r : HostReg) (rest : List HostOp), s.hostIn = .read n r :: rest → (s.seq = none ∨ n = 0) →
    ∃ t v, step s = .next t ∧ t = { s with hostIn := rest, hostReads := s.hostReads ++ [v], draws := t.draws }
      ∧ (r = .status → v = s.statusByte) ∧ (r = .haltCause → v = s.haltCause.bits) ∧ (r = .resLen → v = s.resLen)
      ∧ ∀ i : Fin 255, r = .res i → i.val < s.resLen.toNat → v = s.res[i.val]

/-- R160, R161: the reset input, due at any time, gives every piece of block state its reset value; the parameters stay. -/
def Obligations.ResetInputGivesTheResetState : Prop :=
  ∀ (s : State) (n : Nat) (rest : List HostOp), s.hostIn = .reset n :: rest → (s.seq = none ∨ n = 0) →
    ∃ t, step s = .next t ∧ t.bound = false ∧ t.halted = false ∧ t.haltCause = .noCause ∧ t.busy = false ∧ t.cs = .unknown
      ∧ t.dset = Vector.replicate 255 false ∧ t.resLen = 0 ∧ t.statusByte = 0 ∧ t.seq = none ∧ t.trace = []
      ∧ t.cfg = s.cfg ∧ t.hostIn = rest

/-- R160: what `State.reset` holds where the spec gives a value. -/
def Obligations.ResetStateAsTheSpecGivesIt : Prop :=
  State.reset.bound = false ∧ State.reset.halted = false ∧ State.reset.haltCause = .noCause ∧ State.reset.busy = false
    ∧ State.reset.cs = .unknown ∧ State.reset.dset = Vector.replicate 255 false ∧ State.reset.resLen = 0
    ∧ State.reset.statusByte = 0 ∧ State.reset.seq = none ∧ State.reset.trace = []

/-- R21: the bits of STATUS, with the codes of R140; R141: the codes of HALT_CAUSE. -/
def Obligations.StatusBitsAsTheSpecPlacesThem : Prop :=
  (∀ s : State,
    s.statusByte.extractLsb' 0 3 =
        (match s.code with | .ok => 0#3 | .timeout => 1#3 | .constructionError => 2#3 | .contractViolation => 3#3)
      ∧ s.statusByte.getLsbD 3 = s.osfSeen ∧ s.statusByte.getLsbD 4 = s.halted ∧ s.statusByte.getLsbD 5 = s.bound
      ∧ s.statusByte.getLsbD 6 = s.busy ∧ s.statusByte.getLsbD 7 = false)
    ∧ Cause.noCause.bits = 0#8 ∧ Cause.unbound.bits = 1#8 ∧ Cause.zeroLength.bits = 2#8
    ∧ Cause.illegalRequest.bits = 3#8 ∧ Cause.codecRange.bits = 4#8 ∧ Cause.unsetData.bits = 5#8

/-- Assumption 2 (the model's choice of how inputs land): a request that a read waiting for `d` events pauses has emitted
exactly `d` events, and the read is due. -/
def Obligations.ReadLandsAfterItsEvents : Prop :=
  ∀ (i : Instr) (s t : State) (d : Nat) (r : HostReg) (rest : List HostOp), i.isRequest = true →
    s.hostIn = .read d r :: rest → exec i s = .next t → t.busy = true →
    ∃ evs, t.trace = s.trace ++ evs ∧ evs.length = d ∧ t.hostIn = .read 0 r :: rest

/-! Steps and encodings. -/

/-- R28: a host write of a word to REQ, on a block with no request in progress, runs the instruction the word decodes to. -/
def Obligations.StepRunsTheDecodedRequest : Prop :=
  ∀ (s : State) (w : ReqWord) (rest : List HostOp) (i : Instr), s.seq = none → s.hostIn = .writeReq w :: rest →
    decode (.req16 w) = .ok i → step s = exec i { s with req := w, hostIn := rest }

/-- Assumption 1 (the model's choice of what a step of a paused request is): at the start of a frame, with no host action due,
the step runs the wire command the buffer's first byte decodes to. -/
def Obligations.StepRunsTheDecodedCommand : Prop :=
  ∀ (s : State) (c : Byte) (payload : List Byte) (p : Point) (i : Instr),
    s.seq = some (.frame (c :: payload) .assert p) → s.interrupted = false → decode (.wire8 c) = .ok i →
    step s = exec i s

/-- R61, R64, R65: a few words and bytes decode to the instructions they stand for. -/
def Obligations.SampleWordsDecode : Prop :=
  decode (.req16 0x1003) = .ok (.init true true) ∧ decode (.req16 0x1001) = .ok (.init true false)
    ∧ decode (.req16 0x2207) = .ok (.rdreg 2 7) ∧ decode (.req16 0x3F02) = .ok (.wrreg 0xF 2)
    ∧ decode (.req16 0x7001) = .ok (.setalm 1) ∧ decode (.req16 0xB000) = .ok .clrall
    ∧ decode (.req16 0xD0FF) = .ok (.bcddec 0xFF) ∧ decode (.wire8 0x92) = .ok (.cmdRead 2)
    ∧ decode (.wire8 0x10) = .ok (.cmdWrite 0)

/-- R64, R65, R61: decoding an encoded instruction gives it back, every operand at every value. -/
def Obligations.DecodeOfEncode : Prop := ∀ i : Instr, decode (encode i) = .ok i

/-- R60, R65, R69: an encoding that decodes is the encoding of the instruction it decodes to: no two words, and no two command
bytes, decode to one instruction, and no reserved bit is ignored. -/
def Obligations.EncodeOfDecode : Prop := ∀ (c : Encoded) (i : Instr), decode c = .ok i → encode i = c

/-- R61: the command byte, with the spec's two examples. -/
def Obligations.CommandByteFormula : Prop :=
  (∀ a : RegAddr, cmdByte .read a = 0x80#8 ||| 0x10#8 ||| a.zeroExtend 8)
    ∧ (∀ a : RegAddr, cmdByte .write a = 0x00#8 ||| 0x10#8 ||| a.zeroExtend 8)
    ∧ (∀ a : RegAddr, (cmdByte .read a).toNat = 0x90 + a.toNat ∧ (cmdByte .write a).toNat = 0x10 + a.toNat)
    ∧ cmdByte .read PReg.seconds.addr = 0x92#8 ∧ cmdByte .write PReg.control1.addr = 0x10#8

/-- R72, R73: the words of the assembler's lines and the expansions of the pseudo-instructions. -/
def Obligations.PseudoInstructionsExpand : Prop :=
  ∀ (a : RegAddr) (v : Byte),
    AsmLine.ops (.rd1 a) = AsmLine.ops (.request (.rdreg a 1))
      ∧ AsmLine.ops (.wr1 a v) = AsmLine.ops (.data [v]) ++ AsmLine.ops (.request (.wrreg a 1))
      ∧ AsmLine.ops (.data [v]) = [.writeData 0 v]
      ∧ AsmLine.ops .setalmOff = [.writeReq 0x7000]
      ∧ AsmLine.ops (.request (.bcdenc v)) = [.writeReq (0xC000#16 ||| v.zeroExtend 16)]

/-! Invariants and rules of the whole machine. -/

/-- The block after reset is safe (R160). -/
def Obligations.ResetStateIsSafe : Prop := Safe State.reset

/-- R51, R90, R98 and the rest of `Safe`: every step from a safe state leads to a safe state, host actions, pauses and block
reset included. -/
def Obligations.StepKeepsSafe : Prop := ∀ s t : State, Safe s → step s = .next t → Safe t

/-- R51, R90, R98: in the trace of a safe state every transfer stands right after `CS(ASSERT)` and right before `CS(DEASSERT)`,
but for one still under way with CS asserted. -/
def Obligations.TransfersAreBracketed : Prop :=
  ∀ (s : State) (pre post : List Event) (tx : List Byte) (n p : Nat) (r : Answer), Safe s →
    s.trace = pre ++ .xfer tx n p r :: post →
    (∃ pre', pre = pre' ++ [.cs .assert]) ∧ ((post = [] ∧ s.cs = .asserted) ∨ ∃ post', post = .cs .deassert :: post')

/-- R63: every command byte in the trace of a safe state has SA = 1 and bits 6:5 = 0. -/
def Obligations.OnlyRegisterCommandsAreSent : Prop :=
  ∀ (s : State) (tx : List Byte) (n p : Nat) (r : Answer), Safe s → .xfer tx n p r ∈ s.trace →
    ∃ c payload, tx = c :: payload ∧ c.getLsbD 4 = true ∧ c.getLsbD 5 = false ∧ c.getLsbD 6 = false

/-- R26: a block step with a request in progress emits exactly one event. -/
def Obligations.OneEventPerBlockStep : Prop :=
  ∀ (s : State) (pos : SeqPos), s.seq = some pos → ∃ e, (advance s).trace = s.trace ++ [e]

/-- R27: no step but block reset truncates or reorders the trace. -/
def Obligations.TraceOnlyGrows : Prop :=
  ∀ s t : State, step s = .next t → (∀ n rest, s.hostIn ≠ .reset n :: rest) → s.trace <+: t.trace

/-- R7: no step changes a parameter. -/
def Obligations.ParametersNeverChange : Prop := ∀ s t : State, step s = .next t → t.cfg = s.cfg

/-- R30: no instruction writes DATA or DSET, whether or not it is paused. -/
def Obligations.RequestsNeverWriteData : Prop :=
  ∀ (i : Instr) (s t : State), exec i s = .next t → t.data = s.data ∧ t.dset = s.dset

/-- R22, R95: no instruction but INIT changes BOUND. -/
def Obligations.OnlyInitChangesBound : Prop :=
  ∀ (i : Instr) (s t : State), (∀ x c, i ≠ .init x c) → exec i s = .next t → t.bound = s.bound

/-- R32: OSF_SEEN is 0 after every request but GETDT, paused or not, timed out or not. -/
def Obligations.OnlyGetdtSetsOsfSeen : Prop :=
  ∀ (i : Instr) (s t : State), i.isRequest = true → i ≠ .getdt → exec i s = .next t → t.osfSeen = false

/-- R44, R91: `rx[0]` is never used: two runs of a request whose answers differ in the echoed bytes alone end with the same
RES_LEN and the same `RES[0..RES_LEN-1]`, the same outcome, the same levels, and ask the peripheral for the same register
writes. That the answers agree but for the echo is the premise, so no equality of free values (assumptions 3, 4) is used. -/
def Obligations.EchoedByteIsNeverUsed : Prop :=
  ∀ (i : Instr) (s : State) (as bs : List Answer), i.isRequest = true →
    (∀ k n, SameButEcho (({ s with answers := as } : State).answerNo k n) (({ s with answers := bs } : State).answerNo k n)) →
    Ready s →
    ∃ t u, exec i { s with answers := as } = .next t ∧ exec i { s with answers := bs } = .next u
      ∧ t.resLen = u.resLen ∧ t.res.toList.take t.resLen.toNat = u.res.toList.take u.resLen.toNat
      ∧ t.statusByte = u.statusByte ∧ t.haltCause = u.haltCause ∧ t.cs = u.cs
      ∧ t.seq = u.seq ∧ t.trace.flatMap Event.registerWrites = u.trace.flatMap Event.registerWrites
end

