-- ==== Sys2Proof/Laws/Decode.lean ====
section
/-! SUPPORT. The fields of a request word, and what a decoded word or byte can be. -/

namespace Sys2Proof

/-! A word is its three fields (R64). -/

theorem getLsbD_reqWord (op : BitVec 4) (reg : RegAddr) (imm : Byte) (i : Nat) :
    (reqWord op reg imm).getLsbD i =
      if i < 8 then imm.getLsbD i else if i - 8 < 4 then reg.getLsbD (i - 8) else op.getLsbD (i - 8 - 4) := by
  have h : (reqWord op reg imm).getLsbD i = ((op ++ reg) ++ imm).getLsbD i := rfl
  rw [h, BitVec.getLsbD_append, BitVec.getLsbD_append]

@[simp] theorem opField_reqWord (op : BitVec 4) (reg : RegAddr) (imm : Byte) : opField (reqWord op reg imm) = op := by
  refine BitVec.eq_of_getLsbD_eq fun i hi => ?_
  rw [opField, BitVec.getLsbD_extractLsb', getLsbD_reqWord, if_neg (by omega), if_neg (by omega)]
  simp [hi, show 12 + i - 8 - 4 = i by omega]

@[simp] theorem regField_reqWord (op : BitVec 4) (reg : RegAddr) (imm : Byte) : regField (reqWord op reg imm) = reg := by
  refine BitVec.eq_of_getLsbD_eq fun i hi => ?_
  rw [regField, BitVec.getLsbD_extractLsb', getLsbD_reqWord, if_neg (by omega), if_pos (by omega)]
  simp [hi]

@[simp] theorem immField_reqWord (op : BitVec 4) (reg : RegAddr) (imm : Byte) : immField (reqWord op reg imm) = imm := by
  refine BitVec.eq_of_getLsbD_eq fun i hi => ?_
  rw [immField, BitVec.getLsbD_extractLsb', getLsbD_reqWord, if_pos (by omega)]
  simp [hi]

theorem reqWord_fields (w : ReqWord) : reqWord (opField w) (regField w) (immField w) = w := by
  refine BitVec.eq_of_getLsbD_eq fun i hi => ?_
  rw [getLsbD_reqWord, opField, regField, immField]
  split
  · simp; omega
  · split
    · rw [BitVec.getLsbD_extractLsb', show 8 + (i - 8) = i by omega]; simp; omega
    · rw [BitVec.getLsbD_extractLsb', show 12 + (i - 8 - 4) = i by omega]; simp; omega

theorem reqWord_toNat (op : BitVec 4) (reg : RegAddr) (imm : Byte) :
    (reqWord op reg imm).toNat = op.toNat * 4096 + reg.toNat * 256 + imm.toNat := by
  have h : (reqWord op reg imm).toNat = ((op ++ reg) ++ imm).toNat := rfl
  rw [h, BitVec.toNat_append, BitVec.toNat_append, ← Nat.shiftLeft_add_eq_or_of_lt imm.isLt,
    ← Nat.shiftLeft_add_eq_or_of_lt reg.isLt, Nat.shiftLeft_eq, Nat.shiftLeft_eq]
  omega

/-- The must-be-zero bits of a word are those of its fields (R65). -/
theorem legal_reqWord (op : BitVec 4) (reg : RegAddr) (imm : Byte) :
    ReqWord.legal (reqWord op reg imm) =
      (match op.toNat with
        | 1 => reg == 0 && imm &&& 0xFC == 0
        | 2 => true
        | 3 => true
        | 7 => reg == 0 && imm &&& 0xF0 == 0
        | 12 => reg == 0
        | 13 => reg == 0
        | 0 => false
        | 14 => false
        | 15 => false
        | _ => reg == 0 && imm == 0) := by
  have hop : (reqWord op reg imm).extractLsb' 12 4 = op := opField_reqWord op reg imm
  have hand : ∀ (r : RegAddr) (m : Byte), reqWord op reg imm &&& reqWord 0 r m = reqWord 0 (reg &&& r) (imm &&& m) := by
    intro r m
    refine BitVec.eq_of_getLsbD_eq fun i hi => ?_
    simp only [BitVec.getLsbD_and, getLsbD_reqWord]
    split
    · rfl
    · split
      · rfl
      · simp
  have hzero : ∀ (r : RegAddr) (m : Byte), (reqWord 0 r m == 0) = (r == 0 && m == 0) := by
    intro r m
    rw [Bool.eq_iff_iff]
    simp only [beq_iff_eq, Bool.and_eq_true]
    constructor
    · intro h
      have h' := congrArg BitVec.toNat h
      rw [reqWord_toNat] at h'
      simp only [BitVec.ofNat_eq_ofNat, BitVec.toNat_ofNat] at h'
      exact ⟨BitVec.eq_of_toNat_eq (by simp; omega), BitVec.eq_of_toNat_eq (by simp; omega)⟩
    · rintro ⟨rfl, rfl⟩; rfl
  have hall : ∀ r : RegAddr, r &&& 0xF = r := by decide
  have hall8 : ∀ m : Byte, m &&& 0xFF = m := by decide +kernel
  unfold ReqWord.legal
  rw [hop]
  have hlt := op.isLt
  generalize hn : op.toNat = n at hlt
  unfold mustBeZero
  rw [hn]
  interval_cases n
  all_goals first
    | rfl
    | (show (reqWord op reg imm &&& reqWord 0 0xF 0xFC == 0) = _; rw [hand, hzero, hall]; rfl)
    | (show (reqWord op reg imm &&& reqWord 0 0xF 0xFF == 0) = _; rw [hand, hzero, hall, hall8]; rfl)
    | (show (reqWord op reg imm &&& reqWord 0 0xF 0xF0 == 0) = _; rw [hand, hzero, hall]; rfl)
    | (show (reqWord op reg imm &&& reqWord 0 0xF 0x00 == 0) = _; rw [hand, hzero, hall]; simp)
    | (show (reqWord op reg imm &&& reqWord 0 0x0 0x00 == 0) = _; rw [hand, hzero]; simp)

/-! What decodes. -/

/-- A request word decodes to a host request. -/
theorem decodeReq_isRequest {w : ReqWord} {i : Instr} (h : decodeReq w = .ok i) : i.isRequest = true := by
  simp only [decodeReq] at h
  split at h
  · cases h
  · rename_i j hj
    split at h
    · cases h
      simp only [requestOf] at hj
      split at hj <;> first | cases hj; rfl | cases hj
    · cases h

/-- A wire byte decodes to the command of its address, and is that command's byte (R61). -/
theorem decodeCmd_cases {c : Byte} {i : Instr} (h : decodeCmd c = .ok i) :
    (∃ a, i = .cmdRead a ∧ c = cmdByte .read a) ∨ (∃ a, i = .cmdWrite a ∧ c = cmdByte .write a) := by
  have hall : ∀ b : Byte, CmdByte.legal b = true →
      (b.getLsbD 7 = true → b = cmdByte .read (b.extractLsb' 0 4))
        ∧ (b.getLsbD 7 = false → b = cmdByte .write (b.extractLsb' 0 4)) := by decide +kernel
  simp only [decodeCmd] at h
  split at h
  · rename_i hl
    split at h
    · rename_i h7
      cases h
      exact .inl ⟨_, rfl, (hall c hl).1 h7⟩
    · rename_i h7
      cases h
      exact .inr ⟨_, rfl, (hall c hl).2 (by simpa using h7)⟩
  · cases h

end Sys2Proof
end

