-- ==== Sys2Proof/Laws/Frames.lean ====
section
/-! SUPPORT. Transfer buffers are well formed; what a trace scan says of an event more and of the events in it. -/

namespace Sys2Proof.Machine

theorem cmdByte_legal (d : Dir) (a : RegAddr) : CmdByte.legal (cmdByte d a) = true := by
  cases d <;> revert a <;> decide

/-- A read buffer of 1 to 255 fillers is well formed (R62). -/
theorem readBuffer_wellFormed (a : RegAddr) (n : Nat) (h1 : 1 ≤ n) (h2 : n ≤ 255) :
    TxBuffer.wellFormed (readBuffer a n) = true := by
  simp [TxBuffer.wellFormed, readBuffer, cmdByte_legal, h1, Config.maxCount, h2]

/-- A write buffer of 1 to 255 bytes is well formed (R62). -/
theorem writeBuffer_wellFormed (a : RegAddr) (v : List Byte) (h1 : 1 ≤ v.length) (h2 : v.length ≤ 255) :
    TxBuffer.wellFormed (writeBuffer a v) = true := by
  have hdir : ∀ a : RegAddr, cmdByte .write a &&& Config.dirRead = 0 := by decide
  simp [TxBuffer.wellFormed, writeBuffer, cmdByte_legal, h1, Config.maxCount, h2, hdir]

/-- The payload of a well-formed buffer has 1 to 255 bytes. -/
theorem wellFormed_payload {c : Byte} {p : List Byte} (h : TxBuffer.wellFormed (c :: p) = true) :
    1 ≤ p.length ∧ p.length ≤ 255 := by
  simp only [TxBuffer.wellFormed, Bool.and_eq_true, decide_eq_true_eq, Config.maxCount] at h
  exact ⟨h.1.1.2, of_decide_eq_true h.1.2⟩

/-- An answer fits its transfer (R91). -/
theorem answerNo_fits (s : State) (k n : Nat) : Answer.fits n (s.answerNo k n) = true := by
  simp only [State.answerNo, fitAnswer, Answer.fits]
  split <;> rename_i h <;> split at h <;> simp_all
  rw [← h]; simp

theorem scan_append (tr : List Event) (e : Event) : scan (tr ++ [e]) = (scan tr).bind fun l => l.next e := by
  simp [scan, List.foldlM_append]

/-- A scan goes on from where a prefix ends. -/
theorem scan_prefix {pre post : List Event} {l : Line} (h : scan (pre ++ post) = some l) :
    ∃ m, scan pre = some m ∧ post.foldlM Line.next m = some l := by
  rw [scan, List.foldlM_append] at h
  cases hp : List.foldlM Line.next Line.outside pre with
  | none => rw [hp] at h; cases h
  | some m => rw [hp] at h; exact ⟨m, hp, h⟩

/-- Only `CS(ASSERT)` opens a frame. -/
theorem Line.next_opened {l : Line} {e : Event} (h : l.next e = some .opened) : e = .cs .assert := by
  unfold Line.next at h
  split at h <;> simp_all

/-- Only a transfer of a well-formed buffer follows, in an opened frame. -/
theorem Line.next_transferred {l : Line} {e : Event} (h : l.next e = some .transferred) : l = .opened := by
  unfold Line.next at h
  split at h <;> simp_all

/-- A transfer can stand only in an opened frame, with a well-formed buffer (R98). -/
theorem Line.next_xfer {l m : Line} {tx : List Byte} {n t : Nat} {r : Answer} (h : l.next (.xfer tx n t r) = some m) :
    l = .opened ∧ m = .transferred ∧ TxBuffer.wellFormed tx = true := by
  unfold Line.next at h
  split at h <;> simp_all

/-- After the transfer only `CS(DEASSERT)` can stand. -/
theorem Line.next_of_transferred {m : Line} {e : Event} (h : Line.transferred.next e = some m) :
    e = .cs .deassert ∧ m = .outside := by
  unfold Line.next at h
  split at h <;> simp_all

end Sys2Proof.Machine
end

