-- ==== Sys2Proof/Laws/State.lean ====
section
/-! SUPPORT. One lemma per field per operation, so that no proof unfolds an operation to read a field. -/

namespace Sys2Proof.Machine

/-! The fields of `emit e s`. -/

@[simp] theorem emit_req (e : Event) (s : State) : (emit e s).req = s.req := rfl
@[simp] theorem emit_data (e : Event) (s : State) : (emit e s).data = s.data := rfl
@[simp] theorem emit_dset (e : Event) (s : State) : (emit e s).dset = s.dset := rfl
@[simp] theorem emit_res (e : Event) (s : State) : (emit e s).res = s.res := rfl
@[simp] theorem emit_resLen (e : Event) (s : State) : (emit e s).resLen = s.resLen := rfl
@[simp] theorem emit_code (e : Event) (s : State) : (emit e s).code = s.code := rfl
@[simp] theorem emit_osfSeen (e : Event) (s : State) : (emit e s).osfSeen = s.osfSeen := rfl
@[simp] theorem emit_haltCause (e : Event) (s : State) : (emit e s).haltCause = s.haltCause := rfl
@[simp] theorem emit_bound (e : Event) (s : State) : (emit e s).bound = s.bound := rfl
@[simp] theorem emit_halted (e : Event) (s : State) : (emit e s).halted = s.halted := rfl
@[simp] theorem emit_busy (e : Event) (s : State) : (emit e s).busy = s.busy := rfl
@[simp] theorem emit_cs (d : CsDrive) (s : State) :
    (emit (.cs d) s).cs = (match d with | .assert => .asserted | .deassert => .deasserted) := by cases d <;> rfl
@[simp] theorem emit_xfer_cs (tx : List Byte) (n t : Nat) (r : Answer) (s : State) :
    (emit (.xfer tx n t r) s).cs = s.cs := rfl
@[simp] theorem emit_hook_cs (c : Cause) (s : State) : (emit (.hook c) s).cs = s.cs := rfl
@[simp] theorem emit_seq (e : Event) (s : State) : (emit e s).seq = s.seq := rfl
@[simp] theorem emit_trace (e : Event) (s : State) : (emit e s).trace = s.trace ++ [e] := rfl
@[simp] theorem emit_cfg (e : Event) (s : State) : (emit e s).cfg = s.cfg := rfl
@[simp] theorem emit_hostIn (e : Event) (s : State) : (emit e s).hostIn = s.hostIn := rfl
@[simp] theorem emit_hostReads (e : Event) (s : State) : (emit e s).hostReads = s.hostReads := rfl
@[simp] theorem emit_answers (e : Event) (s : State) : (emit e s).answers = s.answers := rfl
@[simp] theorem emit_draws (e : Event) (s : State) : (emit e s).draws = s.draws := rfl

/-! The fields of `s.answered`. -/

@[simp] theorem answered_req (s : State) : s.answered.req = s.req := rfl
@[simp] theorem answered_data (s : State) : s.answered.data = s.data := rfl
@[simp] theorem answered_dset (s : State) : s.answered.dset = s.dset := rfl
@[simp] theorem answered_res (s : State) : s.answered.res = s.res := rfl
@[simp] theorem answered_resLen (s : State) : s.answered.resLen = s.resLen := rfl
@[simp] theorem answered_code (s : State) : s.answered.code = s.code := rfl
@[simp] theorem answered_osfSeen (s : State) : s.answered.osfSeen = s.osfSeen := rfl
@[simp] theorem answered_haltCause (s : State) : s.answered.haltCause = s.haltCause := rfl
@[simp] theorem answered_bound (s : State) : s.answered.bound = s.bound := rfl
@[simp] theorem answered_halted (s : State) : s.answered.halted = s.halted := rfl
@[simp] theorem answered_busy (s : State) : s.answered.busy = s.busy := rfl
@[simp] theorem answered_cs (s : State) : s.answered.cs = s.cs := rfl
@[simp] theorem answered_seq (s : State) : s.answered.seq = s.seq := rfl
@[simp] theorem answered_trace (s : State) : s.answered.trace = s.trace := rfl
@[simp] theorem answered_cfg (s : State) : s.answered.cfg = s.cfg := rfl
@[simp] theorem answered_hostIn (s : State) : s.answered.hostIn = s.hostIn := rfl
@[simp] theorem answered_hostReads (s : State) : s.answered.hostReads = s.hostReads := rfl
@[simp] theorem answered_answers (s : State) : s.answered.answers = s.answers.tail := rfl
@[simp] theorem answered_draws (s : State) : s.answered.draws = s.draws + 1 := rfl

/-! The fields of `setResult b s`. -/

@[simp] theorem setResult_req (b : List Byte) (s : State) : (setResult b s).req = s.req := rfl
@[simp] theorem setResult_data (b : List Byte) (s : State) : (setResult b s).data = s.data := rfl
@[simp] theorem setResult_dset (b : List Byte) (s : State) : (setResult b s).dset = s.dset := rfl
@[simp] theorem setResult_res (b : List Byte) (s : State) : (setResult b s).res = bank255 fun i => b[i]?.getD (Config.freeByte s.draws i) := rfl
@[simp] theorem setResult_resLen (b : List Byte) (s : State) : (setResult b s).resLen = BitVec.ofNat 8 b.length := rfl
@[simp] theorem setResult_code (b : List Byte) (s : State) : (setResult b s).code = s.code := rfl
@[simp] theorem setResult_osfSeen (b : List Byte) (s : State) : (setResult b s).osfSeen = s.osfSeen := rfl
@[simp] theorem setResult_haltCause (b : List Byte) (s : State) : (setResult b s).haltCause = s.haltCause := rfl
@[simp] theorem setResult_bound (b : List Byte) (s : State) : (setResult b s).bound = s.bound := rfl
@[simp] theorem setResult_halted (b : List Byte) (s : State) : (setResult b s).halted = s.halted := rfl
@[simp] theorem setResult_busy (b : List Byte) (s : State) : (setResult b s).busy = s.busy := rfl
@[simp] theorem setResult_cs (b : List Byte) (s : State) : (setResult b s).cs = s.cs := rfl
@[simp] theorem setResult_seq (b : List Byte) (s : State) : (setResult b s).seq = s.seq := rfl
@[simp] theorem setResult_trace (b : List Byte) (s : State) : (setResult b s).trace = s.trace := rfl
@[simp] theorem setResult_cfg (b : List Byte) (s : State) : (setResult b s).cfg = s.cfg := rfl
@[simp] theorem setResult_hostIn (b : List Byte) (s : State) : (setResult b s).hostIn = s.hostIn := rfl
@[simp] theorem setResult_hostReads (b : List Byte) (s : State) : (setResult b s).hostReads = s.hostReads := rfl
@[simp] theorem setResult_answers (b : List Byte) (s : State) : (setResult b s).answers = s.answers := rfl
@[simp] theorem setResult_draws (b : List Byte) (s : State) : (setResult b s).draws = s.draws + 1 := rfl

/-! The fields of `endRequest c b s`. -/

@[simp] theorem endRequest_req (c : Code) (b : List Byte) (s : State) : (endRequest c b s).req = s.req := rfl
@[simp] theorem endRequest_data (c : Code) (b : List Byte) (s : State) : (endRequest c b s).data = s.data := rfl
@[simp] theorem endRequest_dset (c : Code) (b : List Byte) (s : State) : (endRequest c b s).dset = s.dset := rfl
@[simp] theorem endRequest_res (c : Code) (b : List Byte) (s : State) : (endRequest c b s).res = (setResult b s).res := rfl
@[simp] theorem endRequest_resLen (c : Code) (b : List Byte) (s : State) : (endRequest c b s).resLen = BitVec.ofNat 8 b.length := rfl
@[simp] theorem endRequest_code (c : Code) (b : List Byte) (s : State) : (endRequest c b s).code = c := rfl
@[simp] theorem endRequest_osfSeen (c : Code) (b : List Byte) (s : State) : (endRequest c b s).osfSeen = s.osfSeen := rfl
@[simp] theorem endRequest_haltCause (c : Code) (b : List Byte) (s : State) : (endRequest c b s).haltCause = s.haltCause := rfl
@[simp] theorem endRequest_bound (c : Code) (b : List Byte) (s : State) : (endRequest c b s).bound = s.bound := rfl
@[simp] theorem endRequest_halted (c : Code) (b : List Byte) (s : State) : (endRequest c b s).halted = s.halted := rfl
@[simp] theorem endRequest_busy (c : Code) (b : List Byte) (s : State) : (endRequest c b s).busy = false := rfl
@[simp] theorem endRequest_cs (c : Code) (b : List Byte) (s : State) : (endRequest c b s).cs = s.cs := rfl
@[simp] theorem endRequest_seq (c : Code) (b : List Byte) (s : State) : (endRequest c b s).seq = none := rfl
@[simp] theorem endRequest_trace (c : Code) (b : List Byte) (s : State) : (endRequest c b s).trace = s.trace := rfl
@[simp] theorem endRequest_cfg (c : Code) (b : List Byte) (s : State) : (endRequest c b s).cfg = s.cfg := rfl
@[simp] theorem endRequest_hostIn (c : Code) (b : List Byte) (s : State) : (endRequest c b s).hostIn = s.hostIn := rfl
@[simp] theorem endRequest_hostReads (c : Code) (b : List Byte) (s : State) : (endRequest c b s).hostReads = s.hostReads := rfl
@[simp] theorem endRequest_answers (c : Code) (b : List Byte) (s : State) : (endRequest c b s).answers = s.answers := rfl
@[simp] theorem endRequest_draws (c : Code) (b : List Byte) (s : State) : (endRequest c b s).draws = s.draws + 1 := rfl

/-! The fields of `raiseViolation c s`. -/

@[simp] theorem raiseViolation_req (c : Cause) (s : State) : (raiseViolation c s).req = s.req := rfl
@[simp] theorem raiseViolation_data (c : Cause) (s : State) : (raiseViolation c s).data = s.data := rfl
@[simp] theorem raiseViolation_dset (c : Cause) (s : State) : (raiseViolation c s).dset = s.dset := rfl
@[simp] theorem raiseViolation_res (c : Cause) (s : State) : (raiseViolation c s).res = s.res := rfl
@[simp] theorem raiseViolation_resLen (c : Cause) (s : State) : (raiseViolation c s).resLen = s.resLen := rfl
@[simp] theorem raiseViolation_code (c : Cause) (s : State) : (raiseViolation c s).code = s.code := rfl
@[simp] theorem raiseViolation_osfSeen (c : Cause) (s : State) : (raiseViolation c s).osfSeen = s.osfSeen := rfl
@[simp] theorem raiseViolation_haltCause (c : Cause) (s : State) : (raiseViolation c s).haltCause = s.haltCause := rfl
@[simp] theorem raiseViolation_bound (c : Cause) (s : State) : (raiseViolation c s).bound = s.bound := rfl
@[simp] theorem raiseViolation_halted (c : Cause) (s : State) : (raiseViolation c s).halted = s.halted := rfl
@[simp] theorem raiseViolation_busy (c : Cause) (s : State) : (raiseViolation c s).busy = s.busy := rfl
@[simp] theorem raiseViolation_cs (c : Cause) (s : State) : (raiseViolation c s).cs = s.cs := rfl
@[simp] theorem raiseViolation_seq (c : Cause) (s : State) : (raiseViolation c s).seq = some (.hook c) := rfl
@[simp] theorem raiseViolation_trace (c : Cause) (s : State) : (raiseViolation c s).trace = s.trace := rfl
@[simp] theorem raiseViolation_cfg (c : Cause) (s : State) : (raiseViolation c s).cfg = s.cfg := rfl
@[simp] theorem raiseViolation_hostIn (c : Cause) (s : State) : (raiseViolation c s).hostIn = s.hostIn := rfl
@[simp] theorem raiseViolation_hostReads (c : Cause) (s : State) : (raiseViolation c s).hostReads = s.hostReads := rfl
@[simp] theorem raiseViolation_answers (c : Cause) (s : State) : (raiseViolation c s).answers = s.answers := rfl
@[simp] theorem raiseViolation_draws (c : Cause) (s : State) : (raiseViolation c s).draws = s.draws := rfl

/-! The fields of `takeViolation c s`. -/

@[simp] theorem takeViolation_req (c : Cause) (s : State) : (takeViolation c s).req = s.req := rfl
@[simp] theorem takeViolation_data (c : Cause) (s : State) : (takeViolation c s).data = s.data := rfl
@[simp] theorem takeViolation_dset (c : Cause) (s : State) : (takeViolation c s).dset = s.dset := rfl
@[simp] theorem takeViolation_res (c : Cause) (s : State) : (takeViolation c s).res = (setResult [] s).res := rfl
@[simp] theorem takeViolation_resLen (c : Cause) (s : State) : (takeViolation c s).resLen = 0 := rfl
@[simp] theorem takeViolation_code (c : Cause) (s : State) : (takeViolation c s).code = .contractViolation := rfl
@[simp] theorem takeViolation_osfSeen (c : Cause) (s : State) : (takeViolation c s).osfSeen = s.osfSeen := rfl
@[simp] theorem takeViolation_haltCause (c : Cause) (s : State) : (takeViolation c s).haltCause = c := rfl
@[simp] theorem takeViolation_bound (c : Cause) (s : State) : (takeViolation c s).bound = s.bound := rfl
@[simp] theorem takeViolation_halted (c : Cause) (s : State) : (takeViolation c s).halted = true := rfl
@[simp] theorem takeViolation_busy (c : Cause) (s : State) : (takeViolation c s).busy = false := rfl
@[simp] theorem takeViolation_cs (c : Cause) (s : State) : (takeViolation c s).cs = s.cs := rfl
@[simp] theorem takeViolation_seq (c : Cause) (s : State) : (takeViolation c s).seq = none := rfl
@[simp] theorem takeViolation_trace (c : Cause) (s : State) : (takeViolation c s).trace = s.trace ++ [.hook c] := rfl
@[simp] theorem takeViolation_cfg (c : Cause) (s : State) : (takeViolation c s).cfg = s.cfg := rfl
@[simp] theorem takeViolation_hostIn (c : Cause) (s : State) : (takeViolation c s).hostIn = s.hostIn := rfl
@[simp] theorem takeViolation_hostReads (c : Cause) (s : State) : (takeViolation c s).hostReads = s.hostReads := rfl
@[simp] theorem takeViolation_answers (c : Cause) (s : State) : (takeViolation c s).answers = s.answers := rfl
@[simp] theorem takeViolation_draws (c : Cause) (s : State) : (takeViolation c s).draws = s.draws + 1 := rfl

/-! The fields of `raiseTimeout s`. -/

@[simp] theorem raiseTimeout_req (s : State) : (raiseTimeout s).req = s.req := rfl
@[simp] theorem raiseTimeout_data (s : State) : (raiseTimeout s).data = s.data := rfl
@[simp] theorem raiseTimeout_dset (s : State) : (raiseTimeout s).dset = s.dset := rfl
@[simp] theorem raiseTimeout_res (s : State) : (raiseTimeout s).res = (setResult [] s).res := rfl
@[simp] theorem raiseTimeout_resLen (s : State) : (raiseTimeout s).resLen = 0 := rfl
@[simp] theorem raiseTimeout_code (s : State) : (raiseTimeout s).code = .timeout := rfl
@[simp] theorem raiseTimeout_osfSeen (s : State) : (raiseTimeout s).osfSeen = s.osfSeen := rfl
@[simp] theorem raiseTimeout_haltCause (s : State) : (raiseTimeout s).haltCause = s.haltCause := rfl
@[simp] theorem raiseTimeout_bound (s : State) : (raiseTimeout s).bound = s.bound := rfl
@[simp] theorem raiseTimeout_halted (s : State) : (raiseTimeout s).halted = s.halted := rfl
@[simp] theorem raiseTimeout_busy (s : State) : (raiseTimeout s).busy = false := rfl
@[simp] theorem raiseTimeout_cs (s : State) : (raiseTimeout s).cs = s.cs := rfl
@[simp] theorem raiseTimeout_seq (s : State) : (raiseTimeout s).seq = none := rfl
@[simp] theorem raiseTimeout_trace (s : State) : (raiseTimeout s).trace = s.trace := rfl
@[simp] theorem raiseTimeout_cfg (s : State) : (raiseTimeout s).cfg = s.cfg := rfl
@[simp] theorem raiseTimeout_hostIn (s : State) : (raiseTimeout s).hostIn = s.hostIn := rfl
@[simp] theorem raiseTimeout_hostReads (s : State) : (raiseTimeout s).hostReads = s.hostReads := rfl
@[simp] theorem raiseTimeout_answers (s : State) : (raiseTimeout s).answers = s.answers := rfl
@[simp] theorem raiseTimeout_draws (s : State) : (raiseTimeout s).draws = s.draws + 1 := rfl

/-! The fields of `startRead a n p s`. -/

@[simp] theorem startRead_req (a : RegAddr) (n : Nat) (p : Point) (s : State) : (startRead a n p s).req = s.req := rfl
@[simp] theorem startRead_data (a : RegAddr) (n : Nat) (p : Point) (s : State) : (startRead a n p s).data = s.data := rfl
@[simp] theorem startRead_dset (a : RegAddr) (n : Nat) (p : Point) (s : State) : (startRead a n p s).dset = s.dset := rfl
@[simp] theorem startRead_res (a : RegAddr) (n : Nat) (p : Point) (s : State) : (startRead a n p s).res = s.res := rfl
@[simp] theorem startRead_resLen (a : RegAddr) (n : Nat) (p : Point) (s : State) : (startRead a n p s).resLen = s.resLen := rfl
@[simp] theorem startRead_code (a : RegAddr) (n : Nat) (p : Point) (s : State) : (startRead a n p s).code = s.code := rfl
@[simp] theorem startRead_osfSeen (a : RegAddr) (n : Nat) (p : Point) (s : State) : (startRead a n p s).osfSeen = s.osfSeen := rfl
@[simp] theorem startRead_haltCause (a : RegAddr) (n : Nat) (p : Point) (s : State) : (startRead a n p s).haltCause = s.haltCause := rfl
@[simp] theorem startRead_bound (a : RegAddr) (n : Nat) (p : Point) (s : State) : (startRead a n p s).bound = s.bound := rfl
@[simp] theorem startRead_halted (a : RegAddr) (n : Nat) (p : Point) (s : State) : (startRead a n p s).halted = s.halted := rfl
@[simp] theorem startRead_busy (a : RegAddr) (n : Nat) (p : Point) (s : State) : (startRead a n p s).busy = s.busy := rfl
@[simp] theorem startRead_cs (a : RegAddr) (n : Nat) (p : Point) (s : State) : (startRead a n p s).cs = s.cs := rfl
@[simp] theorem startRead_seq (a : RegAddr) (n : Nat) (p : Point) (s : State) : (startRead a n p s).seq = some (.frame (readBuffer a n) .assert p) := rfl
@[simp] theorem startRead_trace (a : RegAddr) (n : Nat) (p : Point) (s : State) : (startRead a n p s).trace = s.trace := rfl
@[simp] theorem startRead_cfg (a : RegAddr) (n : Nat) (p : Point) (s : State) : (startRead a n p s).cfg = s.cfg := rfl
@[simp] theorem startRead_hostIn (a : RegAddr) (n : Nat) (p : Point) (s : State) : (startRead a n p s).hostIn = s.hostIn := rfl
@[simp] theorem startRead_hostReads (a : RegAddr) (n : Nat) (p : Point) (s : State) : (startRead a n p s).hostReads = s.hostReads := rfl
@[simp] theorem startRead_answers (a : RegAddr) (n : Nat) (p : Point) (s : State) : (startRead a n p s).answers = s.answers := rfl
@[simp] theorem startRead_draws (a : RegAddr) (n : Nat) (p : Point) (s : State) : (startRead a n p s).draws = s.draws := rfl

/-! The fields of `startWrite a v p s`. -/

@[simp] theorem startWrite_req (a : RegAddr) (v : List Byte) (p : Point) (s : State) : (startWrite a v p s).req = s.req := rfl
@[simp] theorem startWrite_data (a : RegAddr) (v : List Byte) (p : Point) (s : State) : (startWrite a v p s).data = s.data := rfl
@[simp] theorem startWrite_dset (a : RegAddr) (v : List Byte) (p : Point) (s : State) : (startWrite a v p s).dset = s.dset := rfl
@[simp] theorem startWrite_res (a : RegAddr) (v : List Byte) (p : Point) (s : State) : (startWrite a v p s).res = s.res := rfl
@[simp] theorem startWrite_resLen (a : RegAddr) (v : List Byte) (p : Point) (s : State) : (startWrite a v p s).resLen = s.resLen := rfl
@[simp] theorem startWrite_code (a : RegAddr) (v : List Byte) (p : Point) (s : State) : (startWrite a v p s).code = s.code := rfl
@[simp] theorem startWrite_osfSeen (a : RegAddr) (v : List Byte) (p : Point) (s : State) : (startWrite a v p s).osfSeen = s.osfSeen := rfl
@[simp] theorem startWrite_haltCause (a : RegAddr) (v : List Byte) (p : Point) (s : State) : (startWrite a v p s).haltCause = s.haltCause := rfl
@[simp] theorem startWrite_bound (a : RegAddr) (v : List Byte) (p : Point) (s : State) : (startWrite a v p s).bound = s.bound := rfl
@[simp] theorem startWrite_halted (a : RegAddr) (v : List Byte) (p : Point) (s : State) : (startWrite a v p s).halted = s.halted := rfl
@[simp] theorem startWrite_busy (a : RegAddr) (v : List Byte) (p : Point) (s : State) : (startWrite a v p s).busy = s.busy := rfl
@[simp] theorem startWrite_cs (a : RegAddr) (v : List Byte) (p : Point) (s : State) : (startWrite a v p s).cs = s.cs := rfl
@[simp] theorem startWrite_seq (a : RegAddr) (v : List Byte) (p : Point) (s : State) : (startWrite a v p s).seq = some (.frame (writeBuffer a v) .assert p) := rfl
@[simp] theorem startWrite_trace (a : RegAddr) (v : List Byte) (p : Point) (s : State) : (startWrite a v p s).trace = s.trace := rfl
@[simp] theorem startWrite_cfg (a : RegAddr) (v : List Byte) (p : Point) (s : State) : (startWrite a v p s).cfg = s.cfg := rfl
@[simp] theorem startWrite_hostIn (a : RegAddr) (v : List Byte) (p : Point) (s : State) : (startWrite a v p s).hostIn = s.hostIn := rfl
@[simp] theorem startWrite_hostReads (a : RegAddr) (v : List Byte) (p : Point) (s : State) : (startWrite a v p s).hostReads = s.hostReads := rfl
@[simp] theorem startWrite_answers (a : RegAddr) (v : List Byte) (p : Point) (s : State) : (startWrite a v p s).answers = s.answers := rfl
@[simp] theorem startWrite_draws (a : RegAddr) (v : List Byte) (p : Point) (s : State) : (startWrite a v p s).draws = s.draws := rfl

/-! The fields of `writeData i v s`. -/

@[simp] theorem writeData_req (i : Fin 255) (v : Byte) (s : State) : (writeData i v s).req = s.req := rfl
@[simp] theorem writeData_data (i : Fin 255) (v : Byte) (s : State) : (writeData i v s).data = s.data.set i.val v := rfl
@[simp] theorem writeData_dset (i : Fin 255) (v : Byte) (s : State) : (writeData i v s).dset = s.dset.set i.val true := rfl
@[simp] theorem writeData_res (i : Fin 255) (v : Byte) (s : State) : (writeData i v s).res = s.res := rfl
@[simp] theorem writeData_resLen (i : Fin 255) (v : Byte) (s : State) : (writeData i v s).resLen = s.resLen := rfl
@[simp] theorem writeData_code (i : Fin 255) (v : Byte) (s : State) : (writeData i v s).code = s.code := rfl
@[simp] theorem writeData_osfSeen (i : Fin 255) (v : Byte) (s : State) : (writeData i v s).osfSeen = s.osfSeen := rfl
@[simp] theorem writeData_haltCause (i : Fin 255) (v : Byte) (s : State) : (writeData i v s).haltCause = s.haltCause := rfl
@[simp] theorem writeData_bound (i : Fin 255) (v : Byte) (s : State) : (writeData i v s).bound = s.bound := rfl
@[simp] theorem writeData_halted (i : Fin 255) (v : Byte) (s : State) : (writeData i v s).halted = s.halted := rfl
@[simp] theorem writeData_busy (i : Fin 255) (v : Byte) (s : State) : (writeData i v s).busy = s.busy := rfl
@[simp] theorem writeData_cs (i : Fin 255) (v : Byte) (s : State) : (writeData i v s).cs = s.cs := rfl
@[simp] theorem writeData_seq (i : Fin 255) (v : Byte) (s : State) : (writeData i v s).seq = s.seq := rfl
@[simp] theorem writeData_trace (i : Fin 255) (v : Byte) (s : State) : (writeData i v s).trace = s.trace := rfl
@[simp] theorem writeData_cfg (i : Fin 255) (v : Byte) (s : State) : (writeData i v s).cfg = s.cfg := rfl
@[simp] theorem writeData_hostIn (i : Fin 255) (v : Byte) (s : State) : (writeData i v s).hostIn = s.hostIn := rfl
@[simp] theorem writeData_hostReads (i : Fin 255) (v : Byte) (s : State) : (writeData i v s).hostReads = s.hostReads := rfl
@[simp] theorem writeData_answers (i : Fin 255) (v : Byte) (s : State) : (writeData i v s).answers = s.answers := rfl
@[simp] theorem writeData_draws (i : Fin 255) (v : Byte) (s : State) : (writeData i v s).draws = s.draws := rfl

/-! The fields of `hostRead r s`. -/

@[simp] theorem hostRead_req (r : HostReg) (s : State) : (hostRead r s).req = s.req := rfl
@[simp] theorem hostRead_data (r : HostReg) (s : State) : (hostRead r s).data = s.data := rfl
@[simp] theorem hostRead_dset (r : HostReg) (s : State) : (hostRead r s).dset = s.dset := rfl
@[simp] theorem hostRead_res (r : HostReg) (s : State) : (hostRead r s).res = s.res := rfl
@[simp] theorem hostRead_resLen (r : HostReg) (s : State) : (hostRead r s).resLen = s.resLen := rfl
@[simp] theorem hostRead_code (r : HostReg) (s : State) : (hostRead r s).code = s.code := rfl
@[simp] theorem hostRead_osfSeen (r : HostReg) (s : State) : (hostRead r s).osfSeen = s.osfSeen := rfl
@[simp] theorem hostRead_haltCause (r : HostReg) (s : State) : (hostRead r s).haltCause = s.haltCause := rfl
@[simp] theorem hostRead_bound (r : HostReg) (s : State) : (hostRead r s).bound = s.bound := rfl
@[simp] theorem hostRead_halted (r : HostReg) (s : State) : (hostRead r s).halted = s.halted := rfl
@[simp] theorem hostRead_busy (r : HostReg) (s : State) : (hostRead r s).busy = s.busy := rfl
@[simp] theorem hostRead_cs (r : HostReg) (s : State) : (hostRead r s).cs = s.cs := rfl
@[simp] theorem hostRead_seq (r : HostReg) (s : State) : (hostRead r s).seq = s.seq := rfl
@[simp] theorem hostRead_trace (r : HostReg) (s : State) : (hostRead r s).trace = s.trace := rfl
@[simp] theorem hostRead_cfg (r : HostReg) (s : State) : (hostRead r s).cfg = s.cfg := rfl
@[simp] theorem hostRead_hostIn (r : HostReg) (s : State) : (hostRead r s).hostIn = s.hostIn := rfl
@[simp] theorem hostRead_hostReads (r : HostReg) (s : State) : (hostRead r s).hostReads = s.hostReads ++ [s.readReg r] := rfl
@[simp] theorem hostRead_answers (r : HostReg) (s : State) : (hostRead r s).answers = s.answers := rfl
@[simp] theorem hostRead_draws (r : HostReg) (s : State) : (hostRead r s).draws = s.draws + 1 := rfl

end Sys2Proof.Machine
end

