-- ==== Sys2Proof/Laws/Ops.lean ====
section
/-! SUPPORT. What the shared operations do: register banks, the transport's draw, checks, host actions. -/

namespace Sys2Proof.Machine

@[simp] theorem bank255_getElem (f : Nat → Byte) (i : Nat) (h : i < 255) : (bank255 f)[i] = f i := by
  simp [bank255]

theorem bank255_toList (f : Nat → Byte) : (bank255 f).toList = (List.range 255).map f := rfl

/-- The first `b.length` bytes of RES after `setResult b`. -/
theorem setResult_take (b : List Byte) (s : State) (h : b.length ≤ 255) :
    (setResult b s).res.toList.take b.length = b := by
  refine List.ext_getElem (by simp [bank255_toList, h]) fun i h1 h2 => ?_
  simp [bank255_toList, h2]

/-- A write to DATA is read back; its DSET bit is set. -/
theorem writeData_read_back (i : Fin 255) (v : Byte) (s : State) :
    (writeData i v s).data[i.val] = v ∧ (writeData i v s).dset[i.val] = true := by simp

/-- A write to DATA leaves every other byte and DSET bit. -/
theorem writeData_elsewhere (i : Fin 255) (v : Byte) (s : State) (j : Nat) (hj : j < 255) (h : i.val ≠ j) :
    (writeData i v s).data[j] = s.data[j] ∧ (writeData i v s).dset[j] = s.dset[j] := by
  simp [h]

theorem fitAnswer_length (d n : Nat) (a : Answer) (rx : List Byte) (h : fitAnswer d n a = .ok rx) : rx.length = n := by
  cases a with
  | ok l => simp only [fitAnswer, Answer.ok.injEq] at h; simp [← h]
  | timeout => simp [fitAnswer] at h

theorem fitAnswer_exact (d : Nat) (rx : List Byte) : fitAnswer d rx.length (.ok rx) = .ok rx := by
  simp only [fitAnswer, Answer.ok.injEq]
  refine List.ext_getElem (by simp) fun i h1 h2 => ?_
  simp [h2]

theorem answerNo_length (s : State) (k n : Nat) (rx : List Byte) (h : s.answerNo k n = .ok rx) : rx.length = n :=
  fitAnswer_length _ _ _ _ h

/-- After `j` transfers the next answers are those that came `j` later. -/
theorem answerNo_later (s t : State) (j k n : Nat) (ha : t.answers = s.answers.drop j) (hd : t.draws = s.draws + j) :
    t.answerNo k n = s.answerNo (j + k) n := by
  simp [State.answerNo, ha, hd, Nat.add_assoc]

/-- A check goes on or raises. -/
theorem check_cases (c : Bool) (cause : Cause) (go : State → State) (s : State) :
    (c = true ∧ check c cause go s = go s) ∨ (c = false ∧ check c cause go s = raiseViolation cause s) := by
  cases c <;> simp [check]

@[simp] theorem check_true (cause : Cause) (go : State → State) (s : State) : check true cause go s = go s := rfl

@[simp] theorem check_false (cause : Cause) (go : State → State) (s : State) :
    check false cause go s = raiseViolation cause s := rfl

end Sys2Proof.Machine
end

