-- ==== Sys2Proof/Laws/PerInstr.lean ====
section
/-! SUPPORT. Statements per instruction: the encoding of every instruction is a legal word or command byte. -/

namespace Sys2Proof

/-- An encoding without a nonzero reserved bit (R69, R60). -/
def Encoded.legal : Encoded → Bool
  | .req16 w => ReqWord.legal w
  | .wire8 b => CmdByte.legal b

end Sys2Proof

namespace Sys2Proof.Laws.LegalEncoding

/-- The encoding of `i` is legal. -/
def Statement (i : Instr) : Prop := (encode i).legal = true

theorem init (xfer cs : Bool) : Statement (.init xfer cs) := by
  revert xfer cs; unfold Statement; decide

theorem rdreg (a : RegAddr) (n : Byte) : Statement (.rdreg a n) := by
  show ReqWord.legal (reqWord 0x2 a n) = true
  rw [legal_reqWord]; rfl

theorem wrreg (a : RegAddr) (n : Byte) : Statement (.wrreg a n) := by
  show ReqWord.legal (reqWord 0x3 a n) = true
  rw [legal_reqWord]; rfl

theorem swrst : Statement .swrst := by unfold Statement; decide

theorem setdt : Statement .setdt := by unfold Statement; decide

theorem getdt : Statement .getdt := by unfold Statement; decide

theorem setalm (m : BitVec 4) : Statement (.setalm m) := by
  revert m; unfold Statement; decide

theorem getirq : Statement .getirq := by unfold Statement; decide

theorem clraf : Statement .clraf := by unfold Statement; decide

theorem clrtf : Statement .clrtf := by unfold Statement; decide

theorem clrall : Statement .clrall := by unfold Statement; decide

theorem bcdenc (v : Byte) : Statement (.bcdenc v) := by
  show ReqWord.legal (reqWord 0xC 0 v) = true
  rw [legal_reqWord]; rfl

theorem bcddec (b : Byte) : Statement (.bcddec b) := by
  show ReqWord.legal (reqWord 0xD 0 b) = true
  rw [legal_reqWord]; rfl

theorem cmdRead (a : RegAddr) : Statement (.cmdRead a) := by
  revert a; unfold Statement; decide

theorem cmdWrite (a : RegAddr) : Statement (.cmdWrite a) := by
  revert a; unfold Statement; decide

end Sys2Proof.Laws.LegalEncoding
end

