-- ==== Sys2Proof/Laws/Sequencer.lean ====
section
/-! SUPPORT. What the sequencer does: the inversion of a block step, whole frames at once, the bound on a request's events,
and how facts about one block step carry over to a run. -/

namespace Sys2Proof.Machine

/-! Host actions that do not land. -/

theorem not_interrupted_of_undisturbed {s : State} (h : s.undisturbed = true) : s.interrupted = false := by
  unfold State.undisturbed at h
  unfold State.interrupted
  split at h <;> simp_all

theorem tick_of_undisturbed {s : State} (h : s.undisturbed = true) : tick s.hostIn = s.hostIn := by
  unfold State.undisturbed at h
  unfold tick
  split at h <;> split <;> simp_all

theorem undisturbed_congr {s t : State} (h : t.hostIn = s.hostIn) : t.undisturbed = s.undisturbed := by
  simp only [State.undisturbed, h]

/-! Runs. -/

@[simp] theorem run_zero (s : State) : run 0 s = s := rfl

theorem run_idle (k : Nat) {s : State} (h : s.seq = none) : run k s = s := by
  cases k <;> simp [run, h]

theorem run_interrupted (k : Nat) {s : State} (h : s.interrupted = true) : run k s = s := by
  cases k <;> simp [run, h]

theorem run_succ (k : Nat) {s : State} {p : SeqPos} (hp : s.seq = some p) (hu : s.interrupted = false) :
    run (k + 1) s = run k (advance s) := by
  simp [run, hp, hu]

/-- What every block step keeps, every run keeps. -/
theorem run_induction {P : State → Prop} (hstep : ∀ s p, s.seq = some p → P s → P (advance s)) :
    ∀ (k : Nat) (s : State), P s → P (run k s)
  | 0, _, h => h
  | k + 1, s, h => by
    cases hp : s.seq with
    | none => rwa [run_idle _ hp]
    | some p =>
      cases hi : s.interrupted with
      | true => rwa [run_interrupted _ hi]
      | false => rw [run_succ k hp hi]; exact run_induction hstep k _ (hstep s p hp h)

/-! One block step (R26). -/

theorem advance_some {s : State} {p : SeqPos} (h : s.seq = some p) :
    advance s = advanceAt p { s with hostIn := tick s.hostIn } := by
  simp [advance, h]

/-- What going on with a request can do: start the next frame, or end the request; GETDT alone may set OSF_SEEN. -/
theorem resume_cases (p : Point) (b : List Byte) (s : State) :
    (∃ o a n q, resume p b s = startRead a n q { s with osfSeen := o } ∧ (o = s.osfSeen ∨ p = .getdtSeconds) ∧ 1 ≤ n ∧ n ≤ 7)
      ∨ (∃ o a v q, resume p b s = startWrite a [v] q { s with osfSeen := o } ∧ (o = s.osfSeen ∨ p = .getdtSeconds))
      ∨ ∃ l, resume p b s = endRequest .ok l s := by
  cases p <;> simp only [resume]
  case rdregData => exact .inr (.inr ⟨_, rfl⟩)
  case wrregSent => exact .inr (.inr ⟨_, rfl⟩)
  case swrstSent => exact .inr (.inr ⟨_, rfl⟩)
  case setdtSent => exact .inr (.inr ⟨_, rfl⟩)
  case getdtSeconds =>
    unfold afterGetdtSeconds
    dsimp only
    split
    · exact .inr (.inl ⟨true, _, _, _, rfl, .inr trivial⟩)
    · exact .inl ⟨s.osfSeen, _, _, _, rfl, .inl rfl, by decide, by decide⟩
  case getdtAck => exact .inl ⟨s.osfSeen, _, _, _, rfl, .inl rfl, by decide, by decide⟩
  case getdtData => exact .inr (.inr ⟨_, rfl⟩)
  case setalmControl m => exact .inr (.inl ⟨s.osfSeen, _, _, _, rfl, .inl rfl⟩)
  case setalmEnabled m => exact .inr (.inl ⟨s.osfSeen, _, _, _, rfl, .inl rfl⟩)
  case setalmField m k =>
    unfold afterSetalmField
    split
    · exact .inr (.inl ⟨s.osfSeen, _, _, _, rfl, .inl rfl⟩)
    · exact .inr (.inr ⟨_, rfl⟩)
  case getirqByte => exact .inr (.inr ⟨_, rfl⟩)
  case clrafRead => exact .inr (.inl ⟨s.osfSeen, _, _, _, rfl, .inl rfl⟩)
  case clrafSent => exact .inr (.inr ⟨_, rfl⟩)
  case clrtfRead => exact .inr (.inl ⟨s.osfSeen, _, _, _, rfl, .inl rfl⟩)
  case clrtfSent => exact .inr (.inr ⟨_, rfl⟩)
  case clrallRead => exact .inr (.inl ⟨s.osfSeen, _, _, _, rfl, .inl rfl⟩)
  case clrallSent => exact .inr (.inr ⟨_, rfl⟩)

/-! Whole frames (R90). -/

/-- The state at the end of a frame of `tx` that the transport answers with `r`, before the request goes on. -/
def framed (tx : List Byte) (p : Point) (r : Answer) (s : State) : State :=
  { s with
    trace := s.trace ++ frameEvents s tx r
    cs := .deasserted
    seq := some (.frame tx (.deassert r) p)
    answers := s.answers.tail
    draws := s.draws + 1 }

/-- An undisturbed run over a whole frame. -/
theorem run_frame {s : State} {tx : List Byte} {p : Point} (k : Nat) (hp : s.seq = some (.frame tx .assert p))
    (hu : s.undisturbed = true) :
    run (k + 3) s = run k (returnFrame p (s.answerNo 0 tx.length) (framed tx p (s.answerNo 0 tx.length) s)) := by
  have ht := tick_of_undisturbed hu
  rw [run_succ _ hp (not_interrupted_of_undisturbed hu)]
  rw [run_succ (p := .frame tx .xfer p) (k + 1) (by simp [advance_some hp, advanceAt])
    (not_interrupted_of_undisturbed (by rw [← hu]; exact undisturbed_congr (by simp [advance_some hp, advanceAt, ht])))]
  rw [run_succ (p := .frame tx (.deassert (s.answerNo 0 tx.length)) p) k
    (by simp [advance, hp, advanceAt, State.answerNo])
    (not_interrupted_of_undisturbed (by
      rw [← hu]; exact undisturbed_congr (by simp [advance, hp, advanceAt, ht])))]
  congr 1
  simp [advance, hp, advanceAt, ht, emit, framed, frameEvents, xferEvent, State.answerNo, State.answered]

/-- The same when the transport answers `Ok(rx)`. -/
theorem run_frame_ok {s : State} {tx : List Byte} {p : Point} {rx : List Byte} (k : Nat)
    (hp : s.seq = some (.frame tx .assert p)) (hu : s.undisturbed = true) (hr : s.answerNo 0 tx.length = .ok rx) :
    run (k + 3) s = run k (resume p rx.tail (framed tx p (.ok rx) s)) := by
  rw [run_frame k hp hu, hr]; rfl

/-- The same when the transfer times out: the request ends (R142). -/
theorem run_frame_timeout {s : State} {tx : List Byte} {p : Point} (k : Nat)
    (hp : s.seq = some (.frame tx .assert p)) (hu : s.undisturbed = true) (hr : s.answerNo 0 tx.length = .timeout) :
    run (k + 3) s = raiseTimeout (framed tx p .timeout s) := by
  rw [run_frame k hp hu, hr]; exact run_idle k rfl

/-- A violation found by a check is taken by the next event (R143). -/
theorem run_violation {s : State} (k : Nat) (c : Cause) (hu : s.undisturbed = true) :
    run (k + 1) (raiseViolation c s) = takeViolation c s := by
  have hu' : (raiseViolation c s).undisturbed = true := by rw [← hu]; exact undisturbed_congr rfl
  rw [run_succ k (p := .hook c) rfl (not_interrupted_of_undisturbed hu')]
  have h : advance (raiseViolation c s) = takeViolation c s := by
    rw [advance_some (p := .hook c) rfl, tick_of_undisturbed hu']
    simp [advanceAt, takeViolation, endRequest, setResult, emit, raiseViolation]
  rw [h]; exact run_idle k rfl

/-! The most events a request still has. -/

/-- The frames a request still has after the one that returns to `p`. -/
def framesAfter : Point → Nat
  | .rdregData => 0
  | .wrregSent => 0
  | .swrstSent => 0
  | .setdtSent => 0
  | .getdtSeconds => 2
  | .getdtAck => 1
  | .getdtData => 0
  | .setalmControl _ => 5
  | .setalmEnabled _ => 4
  | .setalmField _ k => 3 - k.val
  | .getirqByte => 0
  | .clrafRead => 1
  | .clrafSent => 0
  | .clrtfRead => 1
  | .clrtfSent => 0
  | .clrallRead => 1
  | .clrallSent => 0

/-- A bound on the events left at a position. -/
def boundAt : Option SeqPos → Nat
  | none => 0
  | some (.hook _) => 1
  | some .initIdle => 1
  | some (.frame _ .assert p) => 3 + 3 * framesAfter p
  | some (.frame _ .xfer p) => 2 + 3 * framesAfter p
  | some (.frame _ (.deassert _) p) => 1 + 3 * framesAfter p

theorem boundAt_le (p : SeqPos) : boundAt (some p) ≤ maxEvents := by
  have h : ∀ q : Point, framesAfter q ≤ 5 := by intro q; cases q <;> simp [framesAfter]; omega
  cases p with
  | hook c => simp [boundAt, maxEvents]
  | initIdle => simp [boundAt, maxEvents]
  | frame tx ph q => have := h q; cases ph <;> simp [boundAt, maxEvents] <;> omega

theorem boundAt_resume (p : Point) (b : List Byte) (s : State) :
    boundAt (resume p b s).seq ≤ 3 * framesAfter p := by
  cases p <;> simp only [resume]
  case getdtSeconds =>
    unfold afterGetdtSeconds
    dsimp only
    split <;> simp [boundAt, framesAfter, readDatetime]
  case setalmField m k =>
    unfold afterSetalmField
    split
    · simp [writeAlarm, boundAt, framesAfter]; omega
    · simp [boundAt]
  all_goals
    simp [afterRdregData, afterWrregSent, afterSwrstSent, afterSetdtSent, afterGetdtAck, afterGetdtData, readDatetime,
      afterSetalmControl, afterSetalmEnabled, writeAlarm, afterGetirqByte, afterClrafRead, afterClrafSent, afterClrtfRead,
      afterClrtfSent, afterClrallRead, afterClrallSent, boundAt, framesAfter]

/-- A block step uses one of the events left. -/
theorem boundAt_advance {s : State} {p : SeqPos} (h : s.seq = some p) : boundAt (advance s).seq + 1 ≤ boundAt (some p) := by
  rw [advance_some h]
  cases p with
  | hook c => simp [advanceAt, boundAt]
  | initIdle => simp [advanceAt, boundAt]
  | frame tx ph q =>
    cases ph with
    | assert => simp only [advanceAt, boundAt]; omega
    | xfer => simp only [advanceAt, boundAt]; omega
    | deassert r =>
      cases r with
      | timeout => simp [advanceAt, returnFrame, boundAt]
      | ok rx =>
        have := boundAt_resume q rx.tail (emit (.cs .deassert) { s with hostIn := tick s.hostIn })
        show boundAt (resume q rx.tail (emit (.cs .deassert) { s with hostIn := tick s.hostIn })).seq + 1
          ≤ 1 + 3 * framesAfter q
        omega

/-- A run with enough block steps ends the request or stops at a host action that lands. -/
theorem run_ends : ∀ (k : Nat) (s : State), boundAt s.seq ≤ k → (run k s).seq = none ∨ (run k s).interrupted = true
  | k, s, hk => by
    cases hp : s.seq with
    | none => exact .inl (by rw [run_idle k hp, hp])
    | some p =>
      cases hi : s.interrupted with
      | true => exact .inr (by rw [run_interrupted k hi, hi])
      | false =>
        cases k with
        | zero => rw [hp] at hk; have := boundAt_advance hp; omega
        | succ k =>
          rw [run_succ k hp hi]
          have := boundAt_advance hp
          exact run_ends k _ (by rw [hp] at hk; omega)

/-- An accepted request ends or is paused by a host action that lands (R28; assumption 1). -/
theorem run_maxEvents_ends (s : State) : (run maxEvents s).seq = none ∨ (run maxEvents s).interrupted = true := by
  refine run_ends _ _ ?_
  cases h : s.seq with
  | none => simp [boundAt]
  | some p => exact boundAt_le p

/-! Acceptance (R28). -/

/-- What accepting a request can do. -/
theorem accept_cases (start : State → State) (s : State) :
    (s.halted = true ∧ accept start s = .fault .stuckHalted)
      ∨ (s.halted = false ∧ s.busy = true ∧ accept start s = .fault .heldBusy)
      ∨ (s.halted = false ∧ s.busy = false
          ∧ accept start s = .next (run maxEvents (start { s with busy := true, osfSeen := false }))) := by
  unfold accept
  cases s.halted <;> cases s.busy <;> simp

theorem accept_next {start : State → State} {s t : State} (h : accept start s = .next t) :
    s.halted = false ∧ s.busy = false ∧ t = run maxEvents (start { s with busy := true, osfSeen := false }) := by
  rcases accept_cases start s with ⟨-, h'⟩ | ⟨-, -, h'⟩ | ⟨h1, h2, h'⟩
  · simp [h'] at h
  · simp [h'] at h
  · rw [h'] at h
    exact ⟨h1, h2, by injection h with h; exact h.symm⟩

theorem accept_ready {start : State → State} {s : State} (h : Ready s) :
    accept start s = .next (run maxEvents (start { s with busy := true, osfSeen := false })) := by
  simp [accept, h.not_halted, h.not_busy]

end Sys2Proof.Machine
end

