-- ==== Sys2Proof/Laws/Requests.lean ====
section
/-! SUPPORT. A request in progress, frame by frame: what is unchanged since it was accepted and what it has emitted; how a
frame and an end extend that; what a failed check leaves; the operand checks as statements about DATA and DSET. -/

namespace Sys2Proof.Machine

/-- `t` is in a request accepted in `s`: it has emitted `evs` and taken `n` answers, OSF_SEEN is `osf`, CS is `cs`; the rest is as
in `s`. -/
structure InRequest (s : State) (evs : List Event) (n : Nat) (osf : Bool) (cs : CsLevel) (t : State) : Prop where
  inputs : KeepsInputs s t
  standing : KeepsStanding s t
  trace : t.trace = s.trace ++ evs
  answers : t.answers = s.answers.drop n
  draws : t.draws = s.draws + n
  osfSeen : t.osfSeen = osf
  cs_eq : t.cs = cs
  undisturbed : t.undisturbed = true

variable {s t : State} {evs : List Event} {n : Nat} {osf : Bool} {cs : CsLevel}

/-- The state in which a request's pseudocode starts (R28). -/
theorem InRequest.start (h : Ready s) : InRequest s [] 0 false s.cs { s with busy := true, osfSeen := false } where
  inputs := ⟨rfl, rfl, rfl, rfl, rfl, rfl⟩
  standing := ⟨rfl, rfl, rfl⟩
  trace := by simp
  answers := by simp
  draws := rfl
  osfSeen := rfl
  cs_eq := rfl
  undisturbed := by rw [← h.undisturbed]; rfl

theorem InRequest.startRead (h : InRequest s evs n osf cs t) (a : RegAddr) (m : Nat) (p : Point) :
    InRequest s evs n osf cs (startRead a m p t) where
  inputs := ⟨h.inputs.data, h.inputs.dset, h.inputs.req, h.inputs.cfg, h.inputs.hostIn, h.inputs.hostReads⟩
  standing := ⟨h.standing.bound, h.standing.halted, h.standing.haltCause⟩
  trace := h.trace
  answers := h.answers
  draws := h.draws
  osfSeen := h.osfSeen
  cs_eq := h.cs_eq
  undisturbed := by rw [← h.undisturbed]; rfl

theorem InRequest.startWrite (h : InRequest s evs n osf cs t) (a : RegAddr) (v : List Byte) (p : Point) :
    InRequest s evs n osf cs (startWrite a v p t) where
  inputs := ⟨h.inputs.data, h.inputs.dset, h.inputs.req, h.inputs.cfg, h.inputs.hostIn, h.inputs.hostReads⟩
  standing := ⟨h.standing.bound, h.standing.halted, h.standing.haltCause⟩
  trace := h.trace
  answers := h.answers
  draws := h.draws
  osfSeen := h.osfSeen
  cs_eq := h.cs_eq
  undisturbed := by rw [← h.undisturbed]; rfl

theorem InRequest.seeOsf (h : InRequest s evs n osf cs t) : InRequest s evs n true cs { t with osfSeen := true } where
  inputs := ⟨h.inputs.data, h.inputs.dset, h.inputs.req, h.inputs.cfg, h.inputs.hostIn, h.inputs.hostReads⟩
  standing := ⟨h.standing.bound, h.standing.halted, h.standing.haltCause⟩
  trace := h.trace
  answers := h.answers
  draws := h.draws
  osfSeen := rfl
  cs_eq := h.cs_eq
  undisturbed := by rw [← h.undisturbed]; rfl

/-- A whole frame adds its three events and takes one answer. -/
theorem InRequest.framed (h : InRequest s evs n osf cs t) (tx : List Byte) (p : Point) (r : Answer) :
    InRequest s (evs ++ frameEvents s tx r) (n + 1) osf .deasserted (framed tx p r t) where
  inputs := ⟨h.inputs.data, h.inputs.dset, h.inputs.req, h.inputs.cfg, h.inputs.hostIn, h.inputs.hostReads⟩
  standing := ⟨h.standing.bound, h.standing.halted, h.standing.haltCause⟩
  trace := by simp [Machine.framed, frameEvents, h.trace, h.inputs.cfg]
  answers := by simp [Machine.framed, h.answers]
  draws := by simp [Machine.framed, h.draws, Nat.add_assoc]
  osfSeen := h.osfSeen
  cs_eq := rfl
  undisturbed := by rw [← h.undisturbed]; rfl

/-- The next answer of a request that has taken `n` is the `n`-th from its acceptance. -/
theorem InRequest.answerNo (h : InRequest s evs n osf cs t) (m : Nat) : t.answerNo 0 m = s.answerNo n m :=
  answerNo_later s t n 0 m h.answers h.draws

/-- The run of a request over its next frame, answered `Ok(rx)`. -/
theorem InRequest.run_ok (h : InRequest s evs n osf cs t) {tx : List Byte} {p : Point} {rx : List Byte} (k : Nat)
    (hp : t.seq = some (.frame tx .assert p)) (hr : s.answerNo n tx.length = .ok rx) :
    run (k + 3) t = run k (resume p rx.tail (Machine.framed tx p (.ok rx) t)) :=
  run_frame_ok k hp h.undisturbed (by rw [h.answerNo, hr])

/-- The run of a request over its next frame, timed out. -/
theorem InRequest.run_timeout (h : InRequest s evs n osf cs t) {tx : List Byte} {p : Point} (k : Nat)
    (hp : t.seq = some (.frame tx .assert p)) (hr : s.answerNo n tx.length = .timeout) :
    run (k + 3) t = raiseTimeout (Machine.framed tx p .timeout t) :=
  run_frame_timeout k hp h.undisturbed (by rw [h.answerNo, hr])

/-- The end of a request (R31, R142). -/
theorem InRequest.ended (h : InRequest s evs n osf cs t) (c : Code) (b : List Byte) (hb : b.length ≤ 255) :
    Ended s (endRequest c b t) c b evs n where
  busy := rfl
  seq := rfl
  code := rfl
  resLen := by simp; omega
  res := setResult_take b t hb
  trace := h.trace
  answers := h.answers

theorem InRequest.end_inputs (h : InRequest s evs n osf cs t) (c : Code) (b : List Byte) :
    KeepsInputs s (endRequest c b t) :=
  ⟨h.inputs.data, h.inputs.dset, h.inputs.req, h.inputs.cfg, h.inputs.hostIn, h.inputs.hostReads⟩

theorem InRequest.end_standing (h : InRequest s evs n osf cs t) (c : Code) (b : List Byte) :
    KeepsStanding s (endRequest c b t) :=
  ⟨h.standing.bound, h.standing.halted, h.standing.haltCause⟩

/-- An instruction that answers the end of a request in progress completes. -/
theorem InRequest.completes {i : Instr} (h : InRequest s evs n osf cs t) {c : Code} {b : List Byte} (hb : b.length ≤ 255)
    (he : exec i s = .next (endRequest c b t)) : Completes i s c b evs n osf cs :=
  ⟨_, he, h.ended c b hb, h.end_inputs c b, h.end_standing c b, h.osfSeen, h.cs_eq⟩

/-- A check that fails before a request's first frame halts the block (R143, R144). -/
theorem halts_of_raise {start : State → State} {c : Cause} (h : Ready s)
    (hs : start { s with busy := true, osfSeen := false } = raiseViolation c { s with busy := true, osfSeen := false }) :
    HaltsWith (accept start s) s c := by
  have hi := InRequest.start h
  refine ⟨_, accept_ready h, ?_⟩
  rw [hs, show maxEvents = 17 + 1 from rfl, run_violation 17 c hi.undisturbed]
  exact ⟨⟨rfl, rfl, rfl, rfl, by simp, rfl, by simp⟩, ⟨rfl, rfl, rfl, rfl, rfl, rfl⟩, rfl, rfl, rfl, rfl, rfl⟩

/-! The operand checks of R144. -/

theorem dataSet_iff (s : State) (n : Nat) :
    s.dataSet n = true ↔ ∀ k (_ : k < 255), k < n → s.dset[k] = true := by
  simp only [State.dataSet, List.all_eq_true, id]
  constructor
  · intro h k hk hkn
    exact h _ (List.mem_take_iff_getElem.2 ⟨k, by simp; omega, by simp⟩)
  · intro h x hx
    obtain ⟨i, hi, rfl⟩ := List.mem_take_iff_getElem.1 hx
    simpa using h i (by simp at hi; omega) (by simp at hi; omega)

theorem dataOk_iff (s : State) (n : Nat) :
    (s.dataBytes n).all codecOk = true ↔ ∀ k (_ : k < 255), k < n → s.data[k].toNat ≤ 99 := by
  simp only [State.dataBytes, List.all_eq_true]
  constructor
  · intro h k hk hkn
    simpa [codecOk] using h s.data[k] (List.mem_take_iff_getElem.2 ⟨k, by simp; omega, by simp⟩)
  · intro h x hx
    obtain ⟨i, hi, rfl⟩ := List.mem_take_iff_getElem.1 hx
    simpa [codecOk] using h i (by simp at hi; omega) (by simp at hi; omega)

theorem dataBytes_length (s : State) (n : Nat) (hn : n ≤ 255) : (s.dataBytes n).length = n := by
  simp [State.dataBytes, hn]

theorem alarmSet_iff (s : State) (m : BitVec 4) :
    s.alarmSet m = true ↔ ∀ k : Fin 4, m.getLsbD k.val = true → s.dset[k.val] = true := by
  simp only [State.alarmSet, List.all_eq_true, List.mem_finRange, true_implies, Bool.or_eq_true, Bool.not_eq_true']
  exact forall_congr' fun k => by cases m.getLsbD k.val <;> simp

theorem alarmOk_iff (s : State) (m : BitVec 4) :
    s.alarmOk m = true ↔ ∀ k : Fin 4, m.getLsbD k.val = true → s.data[k.val].toNat ≤ 99 := by
  simp only [State.alarmOk, List.all_eq_true, List.mem_finRange, true_implies, Bool.or_eq_true, Bool.not_eq_true']
  refine forall_congr' fun k => ?_
  cases m.getLsbD k.val with
  | false => simp
  | true =>
    have h : codecOk (s.alarmData k) = true ↔ s.data[k.val].toNat ≤ 99 := decide_eq_true_iff
    simpa using h

/-! The first frame. -/

theorem cmdByte_read (a : RegAddr) : cmdByte .read a = (0x90#8 ||| a.zeroExtend 8) := by revert a; decide +kernel

theorem cmdByte_write (a : RegAddr) : cmdByte .write a = (0x10#8 ||| a.zeroExtend 8) := by revert a; decide +kernel

/-- The point a request's first frame returns to. -/
def firstPoint : Instr → Option Point
  | .init _ _ => none
  | .rdreg _ _ => some .rdregData
  | .wrreg _ _ => some .wrregSent
  | .swrst => some .swrstSent
  | .setdt => some .setdtSent
  | .getdt => some .getdtSeconds
  | .setalm m => some (.setalmControl m)
  | .getirq => some .getirqByte
  | .clraf => some .clrafRead
  | .clrtf => some .clrtfRead
  | .clrall => some .clrallRead
  | .bcdenc _ => none
  | .bcddec _ => none
  | .cmdRead _ => none
  | .cmdWrite _ => none

/-- Where a request whose checks are met stands when it is accepted: at the start of its first frame. -/
theorem exec_first_frame {i : Instr} {tx : List Byte} (h : Ready s) (hb : s.bound = true) (hf : FirstFrame s i tx) :
    ∃ t p, exec i s = .next (run maxEvents t) ∧ firstPoint i = some p ∧ t.seq = some (.frame tx .assert p)
      ∧ InRequest s [] 0 false s.cs t := by
  have h0 := InRequest.start h
  have hread : ∀ a m p, ∃ t, t = Machine.startRead a m p { s with busy := true, osfSeen := false }
      ∧ t.seq = some (.frame (readBuffer a m) .assert p) ∧ InRequest s [] 0 false s.cs t :=
    fun a m p => ⟨_, rfl, rfl, h0.startRead a m p⟩
  have hwrite : ∀ a v p, ∃ t, t = Machine.startWrite a v p { s with busy := true, osfSeen := false }
      ∧ t.seq = some (.frame (writeBuffer a v) .assert p) ∧ InRequest s [] 0 false s.cs t :=
    fun a v p => ⟨_, rfl, rfl, h0.startWrite a v p⟩
  cases hf with
  | rdreg a n hn =>
    obtain ⟨t, ht, hs, hi⟩ := hread a n.toNat .rdregData
    refine ⟨t, _, (accept_ready h).trans ?_, rfl, ?_, hi⟩
    · have hn' : (n != 0) = true := by simpa using hn
      simp only [hb, hn', check_true] at ht ⊢
      rw [ht]
    · rw [hs, readBuffer, cmdByte_read]; rfl
  | wrreg a n hn hd =>
    obtain ⟨t, ht, hs, hi⟩ := hwrite a (s.dataBytes n.toNat) .wrregSent
    refine ⟨t, _, (accept_ready h).trans ?_, rfl, ?_, hi⟩
    · have hn' : (n != 0) = true := by simpa using hn
      simp only [hb, hn', (dataSet_iff s n.toNat).2 hd, check_true] at ht ⊢
      rw [ht]
    · rw [hs, writeBuffer, cmdByte_write]; rfl
  | swrst =>
    obtain ⟨t, ht, hs, hi⟩ := hwrite PReg.control1.addr [s.cfg.resetMagic] .swrstSent
    refine ⟨t, _, (accept_ready h).trans ?_, rfl, hs, hi⟩
    simp only [hb, check_true] at ht ⊢
    rw [ht]
  | setdt hd hv =>
    obtain ⟨t, ht, hs, hi⟩ := hwrite PReg.seconds.addr ((s.dataBytes 7).map toBcd) .setdtSent
    refine ⟨t, _, (accept_ready h).trans ?_, rfl, hs, hi⟩
    simp only [hb, (dataSet_iff s 7).2 hd, (dataOk_iff s 7).2 hv, check_true] at ht ⊢
    rw [ht]
  | getdt =>
    obtain ⟨t, ht, hs, hi⟩ := hread PReg.seconds.addr 1 .getdtSeconds
    refine ⟨t, _, (accept_ready h).trans ?_, rfl, hs, hi⟩
    simp only [hb, check_true] at ht ⊢
    rw [ht]
  | setalm m hd hv =>
    obtain ⟨t, ht, hs, hi⟩ := hread PReg.control2.addr 1 (.setalmControl m)
    refine ⟨t, _, (accept_ready h).trans ?_, rfl, hs, hi⟩
    simp only [hb, (alarmSet_iff s m).2 hd, (alarmOk_iff s m).2 hv, check_true] at ht ⊢
    rw [ht]
  | getirq =>
    obtain ⟨t, ht, hs, hi⟩ := hread PReg.control2.addr 1 .getirqByte
    refine ⟨t, _, (accept_ready h).trans ?_, rfl, hs, hi⟩
    simp only [hb, check_true] at ht ⊢
    rw [ht]
  | clraf =>
    obtain ⟨t, ht, hs, hi⟩ := hread PReg.control2.addr 1 .clrafRead
    refine ⟨t, _, (accept_ready h).trans ?_, rfl, hs, hi⟩
    simp only [hb, check_true] at ht ⊢
    rw [ht]
  | clrtf =>
    obtain ⟨t, ht, hs, hi⟩ := hread PReg.control2.addr 1 .clrtfRead
    refine ⟨t, _, (accept_ready h).trans ?_, rfl, hs, hi⟩
    simp only [hb, check_true] at ht ⊢
    rw [ht]
  | clrall =>
    obtain ⟨t, ht, hs, hi⟩ := hread PReg.control2.addr 1 .clrallRead
    refine ⟨t, _, (accept_ready h).trans ?_, rfl, hs, hi⟩
    simp only [hb, check_true] at ht ⊢
    rw [ht]

end Sys2Proof.Machine
end

