-- ==== Sys2Proof/Laws/Step.lean ====
section
/-! SUPPORT. What an accepted request and a step can do. -/

namespace Sys2Proof.Machine

/-- What the pseudocode of a request does up to its first event (R95 to R97, R110 to R117, R84, R85): raise, end, bind, or start
a frame on a bound block. -/
inductive Started (s : State) : State → Prop where
  | raised (c : Cause) (h : c ≠ .noCause) : Started s (raiseViolation c s)
  | ended (b : List Byte) : Started s (endRequest .ok b s)
  | failed : Started s (endRequest .constructionError [] { s with bound := false })
  | bound : Started s { s with bound := true, seq := some .initIdle }
  | read (a : RegAddr) (n : Nat) (p : Point) (hb : s.bound = true) (h1 : 1 ≤ n) (h2 : n ≤ 255) :
      Started s (startRead a n p s)
  | write (a : RegAddr) (v : List Byte) (p : Point) (hb : s.bound = true) (h1 : 1 ≤ v.length) (h2 : v.length ≤ 255) :
      Started s (startWrite a v p s)

/-- The start of a request, by a function of the instruction: what `exec` accepts. -/
theorem exec_request {i : Instr} (hi : i.isRequest = true) (s : State) :
    ∃ start, exec i s = accept start s ∧ Started { s with busy := true, osfSeen := false }
      (start { s with busy := true, osfSeen := false }) := by
  have hn : ∀ n : Byte, n ≠ 0 → 1 ≤ n.toNat := by
    intro n h
    rcases Nat.eq_zero_or_pos n.toNat with h0 | h0
    · exact absurd (BitVec.eq_of_toNat_eq (by simpa using h0)) h
    · exact h0
  cases i with
  | cmdRead a => cases hi
  | cmdWrite a => cases hi
  | init x c =>
    refine ⟨fun s =>
      if x && c then { s with bound := true, seq := some .initIdle }
      else endRequest .constructionError [] { s with bound := false }, rfl, ?_⟩
    dsimp only
    split
    · exact .bound
    · exact .failed
  | rdreg a n =>
    refine ⟨_, rfl, ?_⟩
    unfold check
    split
    · rename_i hb
      split
      · rename_i h; exact .read a n.toNat _ hb (hn n (by simpa using h)) (by have := n.isLt; omega)
      · exact .raised _ (by decide)
    · exact .raised _ (by decide)
  | wrreg a n =>
    refine ⟨_, rfl, ?_⟩
    have hl : (s.dataBytes n.toNat).length = n.toNat := by have := n.isLt; simp [State.dataBytes]; omega
    unfold check
    split
    · rename_i hb
      split
      · rename_i h
        split
        · exact .write a _ _ hb (by rw [hl]; exact hn n (by simpa using h)) (by rw [hl]; have := n.isLt; omega)
        · exact .raised _ (by decide)
      · exact .raised _ (by decide)
    · exact .raised _ (by decide)
  | setdt =>
    refine ⟨_, rfl, ?_⟩
    unfold check
    split
    · rename_i hb
      split
      · split
        · exact .write _ _ _ hb (by simp [State.dataBytes]) (by simp [State.dataBytes])
        · exact .raised _ (by decide)
      · exact .raised _ (by decide)
    · exact .raised _ (by decide)
  | setalm m =>
    refine ⟨_, rfl, ?_⟩
    unfold check
    split
    · rename_i hb
      split
      · split
        · exact .read _ _ _ hb (by decide) (by decide)
        · exact .raised _ (by decide)
      · exact .raised _ (by decide)
    · exact .raised _ (by decide)
  | bcdenc v =>
    refine ⟨_, rfl, ?_⟩
    unfold check
    split
    · exact .ended _
    · exact .raised _ (by decide)
  | bcddec b => exact ⟨_, rfl, .ended _⟩
  | swrst =>
    refine ⟨_, rfl, ?_⟩
    unfold check
    split
    · rename_i hb; exact .write _ _ _ hb (by simp) (by simp)
    · exact .raised _ (by decide)
  | _ =>
    refine ⟨_, rfl, ?_⟩
    unfold check
    split
    · rename_i hb; exact .read _ _ _ hb (by decide) (by decide)
    · exact .raised _ (by decide)

/-- What `exec` of a request answers, when it answers a next state. -/
theorem exec_request_next {i : Instr} {s t : State} (hi : i.isRequest = true) (h : exec i s = .next t) :
    s.halted = false ∧ s.busy = false
      ∧ ∃ u, Started { s with busy := true, osfSeen := false } u ∧ t = run maxEvents u := by
  obtain ⟨start, he, hs⟩ := exec_request hi s
  obtain ⟨h1, h2, h3⟩ := accept_next (he ▸ h)
  exact ⟨h1, h2, _, hs, h3⟩

/-- What `exec` of a wire command answers, when it answers a next state: the pending frame, its buffer rebuilt. -/
theorem exec_command_next {i : Instr} {s t : State} (hi : i.isRequest = false) (h : exec i s = .next t) :
    ∃ c payload p tx, s.seq = some (.frame (c :: payload) .assert p) ∧ t = runFrame tx p s
      ∧ ((∃ a, i = .cmdRead a ∧ tx = readBuffer a payload.length) ∨ ∃ a, i = .cmdWrite a ∧ tx = writeBuffer a payload) := by
  cases i with
  | cmdRead a =>
    simp only [exec, execCmdRead] at h
    split at h
    · rename_i c payload p hs
      cases h
      exact ⟨c, payload, p, _, hs, rfl, .inl ⟨a, rfl, rfl⟩⟩
    · cases h
  | cmdWrite a =>
    simp only [exec, execCmdWrite] at h
    split at h
    · rename_i c payload p hs
      cases h
      exact ⟨c, payload, p, _, hs, rfl, .inr ⟨a, rfl, rfl⟩⟩
    · cases h
  | _ => cases hi

/-- What a step that answers a next state has done. -/
inductive Stepped (s t : State) : Prop where
  /-- An idle block without a host action waits (R161). -/
  | waited (hs : s.seq = none) (hh : s.hostIn = []) (ht : t = s)
  /-- A request was accepted (R28). -/
  | requested (w : ReqWord) (rest : List HostOp) (u : State) (hs : s.seq = none) (hh : s.hostIn = .writeReq w :: rest)
      (hn : s.halted = false) (hb : s.busy = false)
      (hu : Started { takeRequest w rest s with busy := true, osfSeen := false } u) (ht : t = run maxEvents u)
  /-- A host action that is no request landed (R29, R30, R161). -/
  | acted (op : HostOp) (rest : List HostOp) (hh : s.hostIn = op :: rest) (hop : ∀ w, op ≠ .writeReq w)
      (hs : s.seq = none ∨ (∃ r, op = .read 0 r) ∨ op = .reset 0) (ht : t = hostAction op { s with hostIn := rest })
  /-- A wire command ran its frame (R92, R93). -/
  | commanded (c : Byte) (payload : List Byte) (p : Point) (tx : List Byte)
      (hs : s.seq = some (.frame (c :: payload) .assert p))
      (htx : (∃ a, c = cmdByte .read a ∧ tx = readBuffer a payload.length) ∨ ∃ a, c = cmdByte .write a ∧ tx = c :: payload)
      (ht : t = runFrame tx p s)
  /-- A busy block ran to the end of its frame, or over a single event (R26). -/
  | ran (pos : SeqPos) (k : Nat) (hs : s.seq = some pos) (ht : t = run k s)

theorem exec_decoded_request {s t : State} {w : ReqWord} {rest : List HostOp} {i : Instr} (hs : s.seq = none)
    (hh : s.hostIn = .writeReq w :: rest) (hi : i.isRequest = true) (h : exec i (takeRequest w rest s) = .next t) :
    Stepped s t := by
  obtain ⟨h1, h2, u, hu, ht⟩ := exec_request_next hi h
  exact .requested w rest u hs hh h1 h2 hu ht

/-- The turn of a busy block. -/
theorem turnAt_cases (pos : SeqPos) :
    (∃ c payload p, pos = .frame (c :: payload) .assert p ∧ turnAt pos = .command c)
      ∨ turnAt pos = .noCommand ∨ turnAt pos = .events (eventsLeft pos) := by
  cases pos with
  | hook c => exact .inr (.inr rfl)
  | initIdle => exact .inr (.inr rfl)
  | frame tx ph p =>
    cases ph with
    | assert =>
      cases tx with
      | nil => exact .inr (.inl rfl)
      | cons c payload => exact .inl ⟨c, payload, p, rfl, rfl⟩
    | xfer => exact .inr (.inr (by cases tx <;> rfl))
    | deassert r => exact .inr (.inr (by cases tx <;> rfl))

theorem stepped_at {s t : State} {pos : SeqPos} (hs : s.seq = some pos) (h : step s = .next t)
    (hturn : s.turn = turnAt pos) : Stepped s t := by
  unfold step at h
  rw [hturn] at h
  rcases turnAt_cases pos with ⟨c, payload, p, rfl, ht⟩ | ht | ht <;> rw [ht] at h
  · simp only [decode] at h
    split at h
    · rename_i i hi
      rcases decodeCmd_cases hi with ⟨a, rfl, ha⟩ | ⟨a, rfl, ha⟩
      · obtain ⟨c', payload', p', tx, h1, h2, h3⟩ := exec_command_next rfl h
        rw [hs] at h1
        cases h1
        rcases h3 with ⟨a', e1, e2⟩ | ⟨a', e1, -⟩
        · cases e1; exact .commanded c payload p tx hs (.inl ⟨a, ha, e2⟩) h2
        · cases e1
      · obtain ⟨c', payload', p', tx, h1, h2, h3⟩ := exec_command_next rfl h
        rw [hs] at h1
        cases h1
        rcases h3 with ⟨a', e1, -⟩ | ⟨a', e1, e2⟩
        · cases e1
        · cases e1; exact .commanded c payload p tx hs (.inr ⟨a, ha, by rw [e2, ha]; rfl⟩) h2
    · cases h
  · cases h
  · cases h
    exact .ran pos _ hs rfl

/-- The inversion of a step. -/
theorem step_cases {s t : State} (h : step s = .next t) : Stepped s t := by
  cases hs : s.seq with
  | none =>
    have h' := h
    unfold step at h
    cases hh : s.hostIn with
    | nil =>
      have ht : s.turn = .wait := by simp [State.turn, hs, hh]
      rw [ht] at h
      cases h
      exact .waited hs hh rfl
    | cons op rest =>
      cases op with
      | writeReq w =>
        have ht : s.turn = .request w rest := by simp [State.turn, hs, hh]
        rw [ht] at h
        simp only [decode] at h
        split at h
        · rename_i i hi
          exact exec_decoded_request hs hh (decodeReq_isRequest hi) h
        · obtain ⟨h1, h2, h3⟩ := accept_next h
          exact .requested w rest _ hs hh h1 h2 (.raised _ (by decide)) h3
      | writeData i v =>
        have ht : s.turn = .host (.writeData i v) rest := by simp [State.turn, hs, hh]
        rw [ht] at h
        cases h
        exact .acted _ rest hh (by simp) (.inl hs) rfl
      | read n r =>
        have ht : s.turn = .host (.read n r) rest := by simp [State.turn, hs, hh]
        rw [ht] at h
        cases h
        exact .acted _ rest hh (by simp) (.inl hs) rfl
      | reset n =>
        have ht : s.turn = .host (.reset n) rest := by simp [State.turn, hs, hh]
        rw [ht] at h
        cases h
        exact .acted _ rest hh (by simp) (.inl hs) rfl
  | some pos =>
    have hturn : (∃ r rest, s.hostIn = .read 0 r :: rest ∧ s.turn = .host (.read 0 r) rest)
        ∨ (∃ rest, s.hostIn = .reset 0 :: rest ∧ s.turn = .host (.reset 0) rest) ∨ s.turn = turnAt pos := by
      simp only [State.turn, hs]
      split
      · exact .inl ⟨_, _, by assumption, rfl⟩
      · exact .inr (.inl ⟨_, by assumption, rfl⟩)
      · exact .inr (.inr rfl)
    rcases hturn with ⟨r, rest, hh, ht⟩ | ⟨rest, hh, ht⟩ | ht
    · unfold step at h
      rw [ht] at h
      cases h
      exact .acted _ rest hh (by simp) (.inr (.inl ⟨r, rfl⟩)) rfl
    · unfold step at h
      rw [ht] at h
      cases h
      exact .acted _ rest hh (by simp) (.inr (.inr rfl)) rfl
    · exact stepped_at hs h ht

end Sys2Proof.Machine
end

