-- ==== Sys2Proof/Tests/Slice0.lean ====
section
/-! SUPPORT. Tests of single steps against spec/95_test_vectors.md (the row is named in each docstring), and for every
obligation with hypotheses a state and operands that meet them (`witness_<name>`). -/

namespace Sys2Proof.Tests.Slice0

open Sys2Proof Sys2Proof.Machine

/-! Helpers. -/

/-- The test parameters of 95_test_vectors.md. -/
def testParams : Params where
  xferTimeout := 100
  osfMask := 0x80
  afMask := 0x08
  tfMask := 0x04
  msfMask := 0x20
  aieMask := 0x02
  resetMagic := 0x58
  getdtMask := Vector.replicate 7 0xFF
  weekdayInvalid := 0
  monthInvalid := 0
  resetSettle := 0

/-- The block after reset, with the test parameters. -/
def fresh : State := { State.reset with cfg := testParams }

/-- A bound block whose transport answers `answers`. -/
def bound (answers : List Answer) : State := { fresh with bound := true, cs := .deasserted, answers := answers }

/-- The host has written `l` to `DATA[0], DATA[1], ...`. -/
def loaded (l : List Byte) (s : State) : State :=
  { s with data := bank255 fun i => l[i]?.getD 0, dset := ⟨((List.range 255).map fun i => decide (i < l.length)).toArray, by simp⟩ }

/-- What a step leaves to be seen: the trace, STATUS, HALT_CAUSE and `RES[0..RES_LEN-1]`. -/
def seen : Host.Outcome State Fault Refusal → Option (List Event × Byte × Byte × List Byte)
  | .next t => some (t.trace, t.statusByte, t.haltCause.bits, t.res.toList.take t.resLen.toNat)
  | .fault _ => none
  | .refused _ => none

/-- The step of a host write of the word `w` to REQ. -/
def write (w : Nat) (s : State) : Host.Outcome State Fault Refusal := step (s.withFetchWord 16 w)

/-- `A, X(tx)->r, D` of 95_test_vectors.md. -/
def fr (tx : List Byte) (r : Answer) : List Event := [.cs .assert, .xfer tx tx.length 100 r, .cs .deassert]

/-- Does a step answer a next state? -/
def goesOn : Host.Outcome State Fault Refusal → Bool
  | .next _ => true
  | .fault _ => false
  | .refused _ => false

/-! Decoding (95_test_vectors.md 2.2; words and bytes written bit by bit from R60, R64, R65). -/

theorem test_decode_init : decode (.req16 0b0001_0000_00000011#16) = .ok (.init true true) := by decide
theorem test_decode_init_xfer_only : decode (.req16 0b0001_0000_00000001#16) = .ok (.init true false) := by decide
theorem test_decode_rdreg : decode (.req16 0b0010_0010_00000111#16) = .ok (.rdreg 2 7) := by decide
theorem test_decode_wrreg : decode (.req16 0b0011_1111_00000010#16) = .ok (.wrreg 0xF 2) := by decide
theorem test_decode_swrst : decode (.req16 0b0100_0000_00000000#16) = .ok .swrst := by decide
theorem test_decode_setdt : decode (.req16 0b0101_0000_00000000#16) = .ok .setdt := by decide
theorem test_decode_getdt : decode (.req16 0b0110_0000_00000000#16) = .ok .getdt := by decide
theorem test_decode_setalm : decode (.req16 0b0111_0000_00000001#16) = .ok (.setalm 1) := by decide
theorem test_decode_getirq : decode (.req16 0b1000_0000_00000000#16) = .ok .getirq := by decide
theorem test_decode_clraf : decode (.req16 0b1001_0000_00000000#16) = .ok .clraf := by decide
theorem test_decode_clrtf : decode (.req16 0b1010_0000_00000000#16) = .ok .clrtf := by decide
theorem test_decode_clrall : decode (.req16 0b1011_0000_00000000#16) = .ok .clrall := by decide
theorem test_decode_bcdenc : decode (.req16 0b1100_0000_00111000#16) = .ok (.bcdenc 56) := by decide
theorem test_decode_bcddec : decode (.req16 0b1101_0000_11111111#16) = .ok (.bcddec 0xFF) := by decide
theorem test_decode_cmdRead : decode (.wire8 0b1_00_1_0010#8) = .ok (.cmdRead 2) := by decide
theorem test_decode_cmdWrite : decode (.wire8 0b0_00_1_0000#8) = .ok (.cmdWrite 0) := by decide

theorem test_encode_words :
    encode (.init true false) = .req16 0x1001 ∧ encode (.init false true) = .req16 0x1002
      ∧ encode (.wrreg 0xF 2) = .req16 0x3F02 ∧ encode (.setalm 0xF) = .req16 0x700F ∧ encode (.cmdRead 0xF) = .wire8 0x9F
      ∧ encode (.cmdWrite 0xC) = .wire8 0x1C := by decide

theorem test_decodeTableWord :
    decodeTableWord 16 0x2207 = some (.rdreg 2 7) ∧ decodeTableWord 8 0x92 = some (.cmdRead 2)
      ∧ decodeTableWord 16 0x4100 = none ∧ decodeTableWord 8 0x82 = none ∧ decodeTableWord 24 0x2207 = none := by decide

/-! WellFormed smoke tests: for each check an ill-formed term it refuses, and one it accepts. -/

theorem test_illegal_opcode :
    ReqWord.legal 0x0000 = false ∧ ReqWord.legal 0xE000 = false ∧ ReqWord.legal 0xF123 = false := by decide
theorem test_illegal_reserved :
    ReqWord.legal 0x4100 = false ∧ ReqWord.legal 0x4001 = false ∧ ReqWord.legal 0x1007 = false ∧ ReqWord.legal 0x7010 = false
      ∧ ReqWord.legal 0xC138 = false := by decide
theorem test_legal_words : ReqWord.legal 0x2200 = true ∧ ReqWord.legal 0x1003 = true ∧ ReqWord.legal 0xD0FF = true := by decide
theorem test_illegal_rejected_by_name :
    decode (.req16 0xE000) = .error .unassignedOpcode ∧ decode (.req16 0x7010) = .error .reservedNonzero
      ∧ decode (.wire8 0x82) = .error .notARegisterCommand := by decide
theorem test_cmdByte_illegal :
    CmdByte.legal 0x82 = false ∧ CmdByte.legal 0xB2 = false ∧ CmdByte.legal 0x52 = false ∧ CmdByte.legal 0x1F = true := by decide
theorem test_txBuffer_illegal :
    TxBuffer.wellFormed [] = false ∧ TxBuffer.wellFormed [0x92] = false ∧ TxBuffer.wellFormed [0x02, 0] = false
      ∧ TxBuffer.wellFormed [0x92, 1] = false ∧ TxBuffer.wellFormed (0x12 :: List.replicate 256 0) = false
      ∧ TxBuffer.wellFormed (0x12 :: List.replicate 255 1) = true := by decide +kernel
theorem test_oneBit_illegal : oneBit 0 = false ∧ oneBit 0x81 = false ∧ oneBit 0x80 = true := by decide
theorem test_params_illegal :
    Params.wellFormed { testParams with afMask := 0x0C } = false
      ∧ Params.wellFormed { testParams with tfMask := 0x08 } = false ∧ Params.wellFormed testParams = true := by decide

/-! The codec (95_test_vectors.md 2.1). -/

theorem test_toBcd : [0, 9, 10, 19, 45, 56, 59, 79, 80, 99].map toBcd
    = [0x00, 0x09, 0x10, 0x19, 0x45, 0x56, 0x59, 0x79, 0x80, 0x99] := by decide +kernel
theorem test_fromBcd : [0x00, 0x09, 0x10, 0x56, 0x59, 0x99, 0x0A, 0x0F, 0x1A, 0x5A, 0x9F, 0xA0, 0xFF].map fromBcd
    = [0, 9, 10, 56, 59, 99, 10, 15, 20, 60, 105, 100, 165] := by decide +kernel

/-- `BCDENC 99`. -/
theorem test_bcdenc_99 : seen (write 0xC063 fresh) = some ([], 0x00, 0, [0x99]) := by decide +kernel
/-- `BCDENC 100`. -/
theorem test_bcdenc_100 : seen (write 0xC064 fresh) = some ([.hook .codecRange], 0x13, 4, []) := by decide +kernel
/-- `BCDDEC 0x56`. -/
theorem test_bcddec_56 : seen (write 0xD056 fresh) = some ([], 0x00, 0, [56]) := by decide +kernel
/-- `BCDDEC 0xFF`. -/
theorem test_bcddec_FF : seen (write 0xD0FF fresh) = some ([], 0x00, 0, [165]) := by decide +kernel

/-! The framer (95_test_vectors.md 2.3). -/

/-- F1. -/
theorem test_init : seen (write 0x1003 fresh) = some ([.cs .deassert], 0x20, 0, []) := by decide +kernel
/-- F3. -/
theorem test_init_missing : seen (write 0x1002 (bound [])) = some ([], 0x02, 0, []) := by decide +kernel
/-- F7. -/
theorem test_rdreg_wrap : seen (write 0x2E03 (bound [.ok [0x9E, 0x5A, 0xAA, 0xBB]]))
    = some (fr [0x9E, 0, 0, 0] (.ok [0x9E, 0x5A, 0xAA, 0xBB]), 0x20, 0, [0x5A, 0xAA, 0xBB]) := by decide +kernel
/-- F8. -/
theorem test_rdreg_timeout : seen (write 0x2207 (bound [.timeout]))
    = some (fr [0x92, 0, 0, 0, 0, 0, 0, 0] .timeout, 0x21, 0, []) := by decide +kernel
/-- F12. -/
theorem test_wrreg : seen (write 0x3F02 (loaded [0xAA, 0xBB] (bound [.ok [0x1F, 0, 0]])))
    = some (fr [0x1F, 0xAA, 0xBB] (.ok [0x1F, 0, 0]), 0x20, 0, []) := by decide +kernel
/-- F11. -/
theorem test_wrreg_unset : seen (write 0x3002 (loaded [1] (bound []))) = some ([.hook .unsetData], 0x33, 5, []) := by
  decide +kernel
/-- F13. -/
theorem test_zero_length_before_unset : seen (write 0x3300 (bound [])) = some ([.hook .zeroLength], 0x33, 2, []) := by
  decide +kernel

/-! The wire commands: the frames of F7 and F10 from their command bytes. -/

/-- A block at the start of the frame `tx`, which returns to `p`. -/
def pending (tx : List Byte) (p : Point) (s : State) : State := { s with busy := true, seq := some (.frame tx .assert p) }

/-- R92 on the frame of F7. -/
theorem test_cmdRead :
    seen (step (pending [0x9E, 0, 0, 0] .rdregData (bound [.ok [0x9E, 0x5A, 0xAA, 0xBB]])))
      = some (fr [0x9E, 0, 0, 0] (.ok [0x9E, 0x5A, 0xAA, 0xBB]), 0x20, 0, [0x5A, 0xAA, 0xBB]) := by decide +kernel
/-- R92: without a pending frame there is nothing to send. -/
theorem test_cmdRead_no_frame : exec (.cmdRead 2) fresh = .fault .noPendingFrame := rfl
/-- R93 on the frame of F10. -/
theorem test_cmdWrite :
    seen (step (pending [0x1F, 0x01] .wrregSent (bound [.ok [0x1F, 0x00]])))
      = some (fr [0x1F, 0x01] (.ok [0x1F, 0x00]), 0x20, 0, []) := by decide +kernel
/-- The fetch of a wire command: a frame of one zero byte on a bound block. -/
theorem test_withFetchWord_wire :
    seen (step (State.withFetchWord { fresh with answers := [.ok [0x92, 0x59]] } 8 0x92))
      = some (fr [0x92, 0] (.ok [0x92, 0x59]), 0x20, 0, [0x59]) := by decide +kernel

/-! The derived requests (95_test_vectors.md 2.4). -/

/-- O1. -/
theorem test_swrst : seen (write 0x4000 (bound [.ok [0x10, 0]])) = some (fr [0x10, 0x58] (.ok [0x10, 0]), 0x20, 0, []) := by
  decide +kernel
/-- O2. -/
theorem test_swrst_unbound : seen (write 0x4000 fresh) = some ([.hook .unbound], 0x13, 1, []) := by decide +kernel
/-- O3. -/
theorem test_setdt :
    seen (write 0x5000 (loaded [56, 10, 0, 17, 0, 10, 20] (bound [.ok [0x12, 0, 0, 0, 0, 0, 0, 0]])))
      = some (fr [0x12, 0x56, 0x10, 0x00, 0x17, 0x00, 0x10, 0x20] (.ok [0x12, 0, 0, 0, 0, 0, 0, 0]), 0x20, 0, []) := by
  decide +kernel
/-- O4. -/
theorem test_setdt_range :
    seen (write 0x5000 (loaded [0, 0, 0, 0, 0, 0, 100] (bound []))) = some ([.hook .codecRange], 0x33, 4, []) := by
  decide +kernel
/-- O8. -/
theorem test_getdt :
    seen (write 0x6000 (bound [.ok [0x92, 0x5A], .ok [0x92, 0x5A, 0xFF, 0x3F, 0x00, 0x07, 0x00, 0xA0]]))
      = some (fr [0x92, 0] (.ok [0x92, 0x5A])
          ++ fr [0x92, 0, 0, 0, 0, 0, 0, 0] (.ok [0x92, 0x5A, 0xFF, 0x3F, 0x00, 0x07, 0x00, 0xA0]), 0x20, 0,
        [60, 165, 45, 0, 7, 0, 100]) := by decide +kernel
/-- P4, the first GETDT: the flag seen, one corrective write, then a timeout. -/
theorem test_getdt_flag :
    seen (write 0x6000 (bound [.ok [0x92, 0xD9], .ok [0x12, 0], .timeout]))
      = some (fr [0x92, 0] (.ok [0x92, 0xD9]) ++ fr [0x12, 0x59] (.ok [0x12, 0]) ++ fr [0x92, 0, 0, 0, 0, 0, 0, 0] .timeout,
        0x29, 0, []) := by decide +kernel
/-- O11. -/
theorem test_setalm :
    seen (write 0x7001 (loaded [11] (bound [.ok [0x91, 0x0C], .ok [0x11, 0], .ok [0x19, 0], .ok [0x1A, 0], .ok [0x1B, 0],
        .ok [0x1C, 0]])))
      = some (fr [0x91, 0] (.ok [0x91, 0x0C]) ++ fr [0x11, 0x06] (.ok [0x11, 0]) ++ fr [0x19, 0x11] (.ok [0x19, 0])
          ++ fr [0x1A, 0x80] (.ok [0x1A, 0]) ++ fr [0x1B, 0x80] (.ok [0x1B, 0]) ++ fr [0x1C, 0x80] (.ok [0x1C, 0]),
        0x20, 0, []) := by decide +kernel
/-- E4. -/
theorem test_setalm_unset_first :
    seen (write 0x7003 { loaded [0, 200] (bound []) with dset := (loaded [0, 200] fresh).dset.set 0 false })
      = some ([.hook .unsetData], 0x33, 5, []) := by decide +kernel
/-- O17. -/
theorem test_getirq : seen (write 0x8000 (bound [.ok [0x91, 0x0C]]))
    = some (fr [0x91, 0] (.ok [0x91, 0x0C]), 0x20, 0, [0x0C]) := by decide +kernel
/-- O18. -/
theorem test_clraf : seen (write 0x9000 (bound [.ok [0x91, 0xFF], .ok [0x11, 0]]))
    = some (fr [0x91, 0] (.ok [0x91, 0xFF]) ++ fr [0x11, 0xF7] (.ok [0x11, 0]), 0x20, 0, []) := by decide +kernel
/-- O21. -/
theorem test_clraf_timeout : seen (write 0x9000 (bound [.timeout])) = some (fr [0x91, 0] .timeout, 0x21, 0, []) := by
  decide +kernel
/-- O19. -/
theorem test_clrtf : seen (write 0xA000 (bound [.ok [0x91, 0x2C], .ok [0x11, 0]]))
    = some (fr [0x91, 0] (.ok [0x91, 0x2C]) ++ fr [0x11, 0x28] (.ok [0x11, 0]), 0x20, 0, []) := by decide +kernel
/-- O20. -/
theorem test_clrall : seen (write 0xB000 (bound [.ok [0x91, 0x00], .ok [0x11, 0]]))
    = some (fr [0x91, 0] (.ok [0x91, 0x00]) ++ fr [0x11, 0x2C] (.ok [0x11, 0]), 0x20, 0, []) := by decide +kernel

/-! Errors and the host's port (95_test_vectors.md 2.5; R29, R30, R161). -/

/-- E2. -/
theorem test_illegal_before_unbound : seen (write 0x4100 fresh) = some ([.hook .illegalRequest], 0x13, 3, []) := by
  decide +kernel
/-- E3. -/
theorem test_unbound_before_zero_length : seen (write 0x2200 fresh) = some ([.hook .unbound], 0x13, 1, []) := by decide +kernel
/-- E5. -/
theorem test_halted_stuck :
    step { fresh with halted := true, haltCause := .unbound, code := .contractViolation, hostIn := [.writeReq 0x1003] }
      = .fault .stuckHalted := rfl
/-- R30: a read that waits for two events of GETIRQ sees BUSY; the frame is not over. -/
theorem test_read_lands_inside :
    (match step { bound [.ok [0x91, 0x0C]] with hostIn := [.writeReq 0x8000, .read 2 .status] } with
      | .next t => some (t.trace.length, t.cs, (match step t with
        | .next u => (u.hostReads, u.trace.length)
        | _ => ([], 0)))
      | _ => none) = some (2, .asserted, [0x60], 2) := by decide +kernel
/-- R73, P3: `WR1` and `RD1`. -/
theorem test_assemble :
    assemble [.wr1 0xF 1, .rd1 2, .setalmOff] = [.writeData 0 1, .writeReq 0x3F01, .writeReq 0x2201, .writeReq 0x7000] := by
  decide +kernel

/-! Witnesses: states and operands that meet the hypotheses of the obligations. -/

/-- A block with its seven date-time fields written, at the codec's two bounds. -/
def dated (answers : List Answer) : State := loaded [99, 0, 99, 0, 99, 0, 99] (bound answers)

/-- A halted block (after E2). -/
def halted (ops : List HostOp) : State :=
  { fresh with halted := true, haltCause := .unbound, code := .contractViolation, trace := [.hook .unbound], hostIn := ops }

/-- A block inside a frame of GETIRQ, after the transfer. -/
def insideFrame : State :=
  { bound [] with
    busy := true
    cs := .asserted
    trace := [.cs .deassert, .cs .assert, .xfer [0x91, 0] 2 100 .timeout]
    seq := some (.frame [0x91, 0] (.deassert .timeout) .getirqByte) }

/-- A bound block after a GETIRQ. -/
def afterFrame : State := { bound [] with trace := fr [0x91, 0] (.ok [0x91, 0x0C]) }

theorem safe_fresh : Safe fresh :=
  ⟨rfl, fun _ h => (by cases h), rfl, by decide, fun h => (by cases h), by decide, by decide, fun h => (by cases h), by decide⟩
theorem safe_halted (ops : List HostOp) : Safe (halted ops) :=
  ⟨rfl, fun _ h => (by cases h), rfl, by simp [halted, fresh, State.reset, lineAt], fun h => (by cases h),
    by simp [halted], by simp [halted], fun _ => rfl, (by decide : testParams.wellFormed = true)⟩
theorem safe_insideFrame : Safe insideFrame :=
  ⟨rfl, fun _ h => (by cases h; decide), by decide, by decide, fun _ _ => (by decide), by decide, by decide,
    fun h => (by cases h), by decide⟩
theorem safe_afterFrame : Safe afterFrame :=
  ⟨rfl, fun _ h => (by cases h), by decide, by decide, fun _ _ => (by decide), by decide, by decide, fun h => (by cases h),
    by decide⟩
theorem ready_fresh : Ready fresh := ⟨rfl, rfl, rfl⟩
theorem ready_bound (as : List Answer) : Ready (bound as) := ⟨rfl, rfl, rfl⟩
theorem ready_dated (as : List Answer) : Ready (dated as) := ⟨rfl, rfl, rfl⟩
theorem dated_dset (as : List Answer) : ∀ k (_ : k < 255), k < 7 → (dated as).dset[k] = true := by
  intro k h hk; interval_cases k <;> rfl
theorem dated_data (as : List Answer) : ∀ k (_ : k < 255), k < 7 → (dated as).data[k].toNat ≤ 99 := by
  intro k h hk; interval_cases k <;> simp [dated, loaded]
theorem dated_alarm_dset (as : List Answer) : ∀ k : Fin 4, (dated as).dset[k.val] = true :=
  fun k => dated_dset as k.val (by omega) (by omega)
theorem dated_alarm_data (as : List Answer) : ∀ k : Fin 4, (dated as).data[k.val].toNat ≤ 99 :=
  fun k => dated_data as k.val (by omega) (by omega)

theorem witness_BcdEncodeGivesPackedBcd : Ready fresh ∧ (99#8).toNat ≤ 99 := ⟨ready_fresh, by decide⟩
theorem witness_BcdEncodeAbove99Halts : Ready fresh ∧ 99 < (100#8).toNat := ⟨ready_fresh, by decide⟩
theorem witness_BcdDecodeGivesTensAndOnes : Ready fresh := ready_fresh
theorem witness_BcdRoundTrip : (99#8).toNat ≤ 99 := by decide
theorem witness_InitBindsAndDeasserts : Ready fresh := ready_fresh
theorem witness_InitWithoutCapabilityUnbinds : Ready (bound []) ∧ (true && false) = false := ⟨ready_bound [], rfl⟩

/-- A read of the most bytes. -/
theorem witness_RdregReturnsTheBytesAfterTheEcho :
    let s := bound [.ok (0x90 :: List.replicate 255 0xA5)]
    Ready s ∧ s.bound = true ∧ (255#8) ≠ 0 ∧ s.answerNo 0 ((255#8).toNat + 1) = .ok (0x90 :: List.replicate 255 0xA5) :=
  ⟨ready_bound _, rfl, by decide, by decide +kernel⟩

theorem witness_WrregSendsDataAsGiven :
    let s := dated [.ok [0x1F, 0, 0, 0]]
    Ready s ∧ s.bound = true ∧ (3#8) ≠ 0 ∧ (∀ k (_ : k < 255), k < (3#8).toNat → s.dset[k] = true)
      ∧ s.answerNo 0 ((3#8).toNat + 1) = .ok [0x1F, 0, 0, 0] :=
  ⟨ready_dated _, rfl, by decide, fun k h hk => dated_dset _ k h (Nat.lt_trans hk (by decide)), by decide +kernel⟩

theorem witness_ZeroCountHalts : Ready (bound []) ∧ (bound []).bound = true := ⟨ready_bound [], rfl⟩

/-- For RDREG's own clause, `p = .rdregData`. -/
theorem witness_CmdReadRunsThePendingFrame :
    let s := pending [0x92, 0] .rdregData (bound [.ok [0x92, 0x59]])
    s.undisturbed = true ∧ s.seq = some (.frame [0x92, 0] .assert .rdregData) ∧ [(0 : Byte)].length ≤ 255
      ∧ s.answerNo 0 2 = .ok [0x92, 0x59] := by decide +kernel

theorem witness_CmdWriteRunsThePendingFrame :
    let s := pending [0x1F, 1] .wrregSent (bound [.ok [0x1F, 0]])
    s.undisturbed = true ∧ s.seq = some (.frame [0x1F, 1] .assert .wrregSent) ∧ s.answerNo 0 2 = .ok [0x1F, 0] := by
  decide +kernel

theorem witness_CommandTimeoutEndsTheRequest :
    let s := pending [0x92, 0] .rdregData (bound [.timeout])
    s.undisturbed = true ∧ s.seq = some (.frame [0x92, 0] .assert .rdregData) ∧ s.answerNo 0 2 = .timeout := by decide +kernel

theorem witness_AnswersHaveTheTransferLength :
    (bound [.ok [0x92, 0x59]]).answers = .ok [0x92, 0x59] :: [] ∧ (bound [.ok [0x92, 0x59]]).answerNo 0 2 = .ok [0x92, 0x59] := by
  decide +kernel

theorem witness_SwrstWritesTheMagicByte :
    let s := bound [.ok [0x10, 0]]
    Ready s ∧ s.bound = true ∧ s.answerNo 0 2 = .ok [0x10, 0] := ⟨ready_bound _, rfl, by decide +kernel⟩

/-- Also for `SetdtAddressesTheDatetimeRegisters`. -/
theorem witness_SetdtWritesSevenEncodedFields :
    let s := dated [.ok [0x12, 0, 0, 0, 0, 0, 0, 0]]
    Ready s ∧ s.bound = true ∧ (∀ k (_ : k < 255), k < 7 → s.dset[k] = true)
      ∧ (∀ k (_ : k < 255), k < 7 → s.data[k].toNat ≤ 99) ∧ s.answerNo 0 8 = .ok [0x12, 0, 0, 0, 0, 0, 0, 0] :=
  ⟨ready_dated _, rfl, dated_dset _, dated_data _, by decide +kernel⟩

theorem witness_GetdtWithFlagClearReadsTwice :
    let s := bound [.ok [0x92, 0x59], .ok [0x92, 0x59, 0x59, 0x23, 0x31, 0x06, 0x12, 0x99]]
    Ready s ∧ s.bound = true ∧ s.answerNo 0 2 = .ok [0x92, 0x59] ∧ 0x59 &&& s.cfg.osfMask = 0
      ∧ s.answerNo 1 8 = .ok (0x92 :: [0x59, 0x59, 0x23, 0x31, 0x06, 0x12, 0x99]) :=
  ⟨ready_bound _, rfl, by decide +kernel⟩

theorem witness_GetdtWithFlagSeenAcknowledgesOnce :
    let s := bound [.ok [0x92, 0xD6], .ok [0x12, 0], .ok [0x92, 0x56, 0, 0, 0, 0, 0, 0]]
    Ready s ∧ s.bound = true ∧ s.answerNo 0 2 = .ok [0x92, 0xD6] ∧ 0xD6 &&& s.cfg.osfMask ≠ 0
      ∧ s.answerNo 1 2 = .ok [0x12, 0] ∧ s.answerNo 2 8 = .ok (0x92 :: [0x56, 0, 0, 0, 0, 0, 0]) :=
  ⟨ready_bound _, rfl, by decide +kernel⟩

theorem witness_GetdtTimeoutKeepsOsfSeen_write :
    let s := bound [.ok [0x92, 0xD6], .timeout]
    Ready s ∧ s.bound = true ∧ s.answerNo 0 2 = .ok [0x92, 0xD6] ∧ 0xD6 &&& s.cfg.osfMask ≠ 0 ∧ s.answerNo 1 2 = .timeout :=
  ⟨ready_bound _, rfl, by decide +kernel⟩
theorem witness_GetdtTimeoutKeepsOsfSeen_read :
    let s := bound [.ok [0x92, 0xD6], .ok [0x12, 0], .timeout]
    Ready s ∧ s.bound = true ∧ s.answerNo 0 2 = .ok [0x92, 0xD6] ∧ 0xD6 &&& s.cfg.osfMask ≠ 0
      ∧ s.answerNo 1 2 = .ok [0x12, 0] ∧ s.answerNo 2 8 = .timeout :=
  ⟨ready_bound _, rfl, by decide +kernel⟩

theorem witness_SetalmWritesControlThenFourAlarms :
    let s := dated [.ok [0x91, 0x0C], .ok [0x11, 0], .ok [0x19, 0], .ok [0x1A, 0], .ok [0x1B, 0], .ok [0x1C, 0]]
    Ready s ∧ s.bound = true ∧ (∀ k : Fin 4, (5#4).getLsbD k.val = true → s.dset[k.val] = true)
      ∧ (∀ k : Fin 4, (5#4).getLsbD k.val = true → s.data[k.val].toNat ≤ 99)
      ∧ s.answerNo 0 2 = .ok [0x91, 0x0C] ∧ s.answerNo 1 2 = .ok [0x11, 0] ∧ s.answerNo 2 2 = .ok [0x19, 0]
      ∧ s.answerNo 3 2 = .ok [0x1A, 0] ∧ s.answerNo 4 2 = .ok [0x1B, 0] ∧ s.answerNo 5 2 = .ok [0x1C, 0] :=
  ⟨ready_dated _, rfl, fun k _ => dated_alarm_dset _ k, fun k _ => dated_alarm_data _ k, by decide +kernel⟩

theorem witness_GetirqReturnsRawControl2 :
    let s := bound [.ok [0x91, 0x0C]]
    Ready s ∧ s.bound = true ∧ s.answerNo 0 2 = .ok [0x91, 0x0C] := ⟨ready_bound _, rfl, by decide +kernel⟩

/-- For `ClrafClearsOnlyTheAlarmFlag`, `ClrtfClearsOnlyTheTimerFlag`, `ClrallSetsThreeFlags` and
`ClearingAFlagTouchesNoOtherBit`. -/
theorem witness_ClearRequests :
    let s := bound [.ok [0x91, 0xFF], .ok [0x11, 0]]
    s.cfg.wellFormed = true ∧ Ready s ∧ s.bound = true ∧ s.answerNo 0 2 = .ok [0x91, 0xFF] ∧ s.answerNo 1 2 = .ok [0x11, 0] :=
  ⟨by decide, ready_bound _, rfl, by decide +kernel⟩

theorem witness_FirstFrameTimeoutEndsTheRequest :
    let s := bound [.timeout]
    Ready s ∧ s.bound = true ∧ FirstFrame s .getdt [0x92#8, 0#8] ∧ s.answerNo 0 [0x92#8, 0#8].length = .timeout :=
  ⟨ready_bound _, rfl, .getdt, by decide +kernel⟩

/-- Also for `EveryRequestEndsInOneOutcome`. -/
theorem witness_TimeoutIsNeverRetried : Instr.getdt.isRequest = true ∧ Ready (bound [.ok [0x92, 0xD6], .timeout]) :=
  ⟨rfl, ready_bound _⟩

theorem witness_UnboundRequestHalts :
    (Instr.rdreg 2 0).isRequest = true ∧ (∀ x c, Instr.rdreg 2 0 ≠ .init x c) ∧ (∀ v, Instr.rdreg 2 0 ≠ .bcdenc v)
      ∧ (∀ b, Instr.rdreg 2 0 ≠ .bcddec b) ∧ Ready fresh ∧ fresh.bound = false :=
  ⟨rfl, by simp, by simp, by simp, ready_fresh, rfl⟩

/-- The premises of the three clauses, at the last byte each needs. -/
theorem witness_UnsetDataHalts :
    let s := bound []
    Ready s ∧ s.bound = true ∧ (254 < (255#8).toNat ∧ s.dset[254] = false) ∧ s.dset[6] = false
      ∧ (8#4).getLsbD (3 : Fin 4).val = true ∧ s.dset[(3 : Fin 4).val] = false :=
  ⟨ready_bound _, rfl, ⟨by decide, rfl⟩, rfl, by decide, rfl⟩

theorem witness_FieldAbove99Halts_setdt :
    let s := loaded [0, 0, 0, 0, 0, 0, 100] (bound [])
    Ready s ∧ s.bound = true ∧ (∀ k (_ : k < 255), k < 7 → s.dset[k] = true) ∧ 99 < s.data[6].toNat :=
  ⟨⟨rfl, rfl, rfl⟩, rfl, fun k h hk => by interval_cases k <;> rfl, by decide⟩
theorem witness_FieldAbove99Halts_setalm :
    let s := loaded [0, 0, 0, 100] (bound [])
    Ready s ∧ s.bound = true ∧ (∀ k : Fin 4, (8#4).getLsbD k.val = true → s.dset[k.val] = true)
      ∧ (8#4).getLsbD (3 : Fin 4).val = true ∧ 99 < s.data[(3 : Fin 4).val].toNat :=
  ⟨⟨rfl, rfl, rfl⟩, rfl, fun k _ => by fin_cases k <;> rfl, by decide, by decide⟩

theorem witness_IllegalWordHalts :
    let s := { fresh with hostIn := [.writeReq 0x4100] }
    s.seq = none ∧ s.hostIn = .writeReq 0x4100 :: [] ∧ Ready { s with req := 0x4100, hostIn := [] }
      ∧ decode (.req16 0x4100) = .error .reservedNonzero := ⟨rfl, rfl, ⟨rfl, rfl, rfl⟩, by decide⟩

/-- The premises of the three clauses: halted; busy; neither. -/
theorem witness_RequestStepsUnlessHaltedOrBusy :
    Instr.getirq.isRequest = true ∧ (halted []).halted = true ∧ (insideFrame.halted = false ∧ insideFrame.busy = true)
      ∧ fresh.halted = false ∧ fresh.busy = false := ⟨rfl, rfl, ⟨rfl, rfl⟩, rfl, rfl⟩

theorem witness_HaltIsPermanent_stuck :
    Safe (halted [.writeReq 0x1003]) ∧ (halted [.writeReq 0x1003]).halted = true
      ∧ (halted [.writeReq 0x1003]).hostIn = .writeReq 0x1003 :: [] := ⟨safe_halted _, rfl, rfl⟩
theorem witness_HaltIsPermanent_read :
    let s := halted [.read 0 .status]
    Safe s ∧ s.halted = true ∧ s.hostIn = .read 0 .status :: [] ∧ goesOn (step s) = true
      ∧ ∀ n rest, s.hostIn ≠ .reset n :: rest := ⟨safe_halted _, rfl, rfl, rfl, by simp [halted]⟩

theorem witness_DataWriteSetsByteAndDset :
    let s := { fresh with hostIn := [.writeData 254 0xAA] }
    s.seq = none ∧ s.hostIn = .writeData 254 0xAA :: [] := ⟨rfl, rfl⟩

theorem witness_WritesAreHeldWhileBusy :
    let s := { insideFrame with hostIn := [.writeReq 0x8000] }
    s.seq ≠ none ∧ s.hostIn = .writeReq 0x8000 :: [] ∧ (∃ w, HostOp.writeReq 0x8000 = .writeReq w) ∧ goesOn (step s) = true :=
  ⟨by decide, rfl, ⟨_, rfl⟩, rfl⟩

/-- A read inside a frame. -/
theorem witness_HostReadsAreSideEffectFree_inside :
    let s := { insideFrame with hostIn := [.read 0 .status] }
    s.hostIn = .read 0 .status :: [] ∧ (s.seq = none ∨ (0 : Nat) = 0) := ⟨rfl, .inr rfl⟩
/-- A read of the last result byte of an idle block. -/
theorem witness_HostReadsAreSideEffectFree_result :
    let s := { bound [] with hostIn := [.read 5 (.res 0)], resLen := 1 }
    s.hostIn = .read 5 (.res 0) :: [] ∧ (s.seq = none ∨ (5 : Nat) = 0) ∧ (0 : Fin 255).val < s.resLen.toNat :=
  ⟨rfl, .inl rfl, by decide⟩

/-- Reset inside a frame. -/
theorem witness_ResetInputGivesTheResetState_inside :
    let s := { insideFrame with hostIn := [.reset 0] }
    s.hostIn = .reset 0 :: [] ∧ (s.seq = none ∨ (0 : Nat) = 0) := ⟨rfl, .inr rfl⟩
/-- Reset of a halted block. -/
theorem witness_ResetInputGivesTheResetState_halted :
    (halted [.reset 3]).hostIn = .reset 3 :: [] ∧ ((halted [.reset 3]).seq = none ∨ (3 : Nat) = 0) := ⟨rfl, .inl rfl⟩

theorem witness_ReadLandsAfterItsEvents :
    let s := { bound [.ok [0x91, 0x0C]] with hostIn := [.read 2 .status] }
    Instr.getirq.isRequest = true ∧ s.hostIn = .read 2 .status :: []
      ∧ (match exec .getirq s with
        | .next t => t.busy
        | _ => false) = true := by decide +kernel

theorem witness_StepRunsTheDecodedRequest :
    let s := { fresh with hostIn := [.writeReq 0xC038] }
    s.seq = none ∧ s.hostIn = .writeReq 0xC038 :: [] ∧ decode (.req16 0xC038) = .ok (.bcdenc 56) := ⟨rfl, rfl, by decide⟩

theorem witness_StepRunsTheDecodedCommand :
    let s := pending [0x92, 0] .rdregData (bound [.ok [0x92, 0x59]])
    s.seq = some (.frame [0x92, 0] .assert .rdregData) ∧ s.interrupted = false ∧ decode (.wire8 0x92) = .ok (.cmdRead 2) :=
  ⟨rfl, rfl, by decide⟩

theorem witness_EncodeOfDecode :
    decode (.req16 0x2207) = .ok (.rdreg 2 7) ∧ decode (.wire8 0x1F) = .ok (.cmdWrite 0xF) := by decide

/-- Also for `ParametersNeverChange` and `TraceOnlyGrows`. -/
theorem witness_StepKeepsSafe :
    Safe insideFrame ∧ goesOn (step insideFrame) = true ∧ ∀ n rest, insideFrame.hostIn ≠ .reset n :: rest :=
  ⟨safe_insideFrame, rfl, by simp [insideFrame, bound, fresh, State.reset]⟩

theorem witness_TransfersAreBracketed_open :
    Safe insideFrame ∧ insideFrame.trace = [.cs .deassert, .cs .assert] ++ .xfer [0x91, 0] 2 100 .timeout :: [] :=
  ⟨safe_insideFrame, rfl⟩
theorem witness_TransfersAreBracketed_closed :
    Safe afterFrame ∧ afterFrame.trace = [.cs .assert] ++ .xfer [0x91, 0] 2 100 (.ok [0x91, 0x0C]) :: [.cs .deassert] :=
  ⟨safe_afterFrame, rfl⟩

theorem witness_OnlyRegisterCommandsAreSent :
    Safe afterFrame ∧ .xfer [0x91, 0] 2 100 (.ok [0x91, 0x0C]) ∈ afterFrame.trace := ⟨safe_afterFrame, by decide⟩

theorem witness_OneEventPerBlockStep :
    insideFrame.seq = some (.frame [0x91, 0] (.deassert .timeout) .getirqByte) := rfl

theorem witness_RequestsNeverWriteData : goesOn (exec .setdt (dated [])) = true := rfl
theorem witness_OnlyInitChangesBound : (∀ x c, Instr.getdt ≠ .init x c) ∧ goesOn (exec .getdt (bound [])) = true :=
  ⟨by simp, rfl⟩
theorem witness_OnlyGetdtSetsOsfSeen :
    Instr.getirq.isRequest = true ∧ Instr.getirq ≠ .getdt ∧ goesOn (exec .getirq (bound [])) = true := ⟨rfl, by decide, rfl⟩

/-- Answers that do differ, in the echo of the first. -/
theorem witness_EchoedByteIsNeverUsed :
    Instr.getirq.isRequest = true ∧ Ready (bound [])
      ∧ (bound [.ok [0x91, 0x0C]]).answerNo 0 2 ≠ (bound [.ok [0xFF, 0x0C]]).answerNo 0 2
      ∧ ∀ k n, SameButEcho ((bound [.ok [0x91, 0x0C]]).answerNo k n) ((bound [.ok [0xFF, 0x0C]]).answerNo k n) := by
  refine ⟨rfl, ready_bound [], by decide +kernel, fun k n => ?_⟩
  cases k with
  | succ k =>
    have h : (bound [.ok [0x91, 0x0C]]).answerNo (k + 1) n = (bound [.ok [0xFF, 0x0C]]).answerNo (k + 1) n := rfl
    rw [h]
    cases (bound [.ok [0xFF, 0x0C]]).answerNo (k + 1) n <;> simp [SameButEcho]
  | zero =>
    cases n with
    | zero => rfl
    | succ n => simp [State.answerNo, bound, fitAnswer, SameButEcho, List.range_succ_eq_map, Function.comp_def]

end Sys2Proof.Tests.Slice0
end

section
/-! PROOF. The parameters of R7 through a block step, a run and a machine step. -/

namespace Sys2Proof.Machine

@[simp] theorem resume_cfg (p : Point) (b : List Byte) (s : State) : (resume p b s).cfg = s.cfg := by
  rcases resume_cases p b s with ⟨o, a, n, q, h, -⟩ | ⟨o, a, v, q, h, -⟩ | ⟨l, h⟩
  · simp [h]
  · simp [h]
  · simp [h]

@[simp] theorem returnFrame_cfg (p : Point) (r : Answer) (s : State) : (returnFrame p r s).cfg = s.cfg := by
  cases r with
  | ok rx => exact resume_cfg p rx.tail s
  | timeout => exact raiseTimeout_cfg s

@[simp] theorem advanceAt_cfg (pos : SeqPos) (s : State) : (advanceAt pos s).cfg = s.cfg := by
  cases pos with
  | hook c => exact takeViolation_cfg c s
  | initIdle => simp [advanceAt]
  | frame tx ph p =>
    cases ph with
    | assert => simp [advanceAt]
    | xfer => simp [advanceAt]
    | deassert r => simp [advanceAt]

@[simp] theorem run_cfg (k : Nat) (s : State) : (run k s).cfg = s.cfg :=
  run_induction (P := fun t => t.cfg = s.cfg)
    (fun t pos hpos ht => by rw [advance_some hpos, advanceAt_cfg, ht]) k s rfl

theorem started_cfg {s u : State} (h : Started s u) : u.cfg = s.cfg := by
  cases h with
  | raised c _ => exact raiseViolation_cfg c s
  | ended b => exact endRequest_cfg .ok b s
  | failed => exact endRequest_cfg _ _ _
  | bound => rfl
  | read a n p => exact startRead_cfg a n p s
  | write a v p => exact startWrite_cfg a v p s

/-- Block reset is one of the host's actions: it does not reset the parameters (R160). -/
@[simp] theorem hostAction_cfg (op : HostOp) (s : State) : (hostAction op s).cfg = s.cfg := by
  cases op with
  | writeReq w => rfl
  | writeData i v => exact writeData_cfg i v s
  | read n r => exact hostRead_cfg r s
  | reset n => rfl

/-- Settles O56: of what a step can do, a host action keeps the parameters outright, and everything else is a run. -/
theorem parametersNeverChange : Obligations.ParametersNeverChange := by
  intro s t h
  cases step_cases h with
  | waited _ _ ht => rw [ht]
  | requested w rest u _ _ _ _ hu ht => rw [ht, run_cfg, started_cfg hu, takeRequest]
  | acted op rest _ _ _ ht => rw [ht, hostAction_cfg]
  | commanded _ _ p tx _ _ ht => rw [ht, runFrame, run_cfg]
  | ran _ k _ ht => rw [ht, run_cfg]

end Sys2Proof.Machine
end

section
/-! PROOF. A block step and the host's port: what a block step emits and keeps, and from it what a run, an instruction and a
step keep (10_state.md). -/

namespace Sys2Proof.Machine

/-! The pseudocode between two events. -/

/-- From `s` to `t` the block has run pseudocode without an event: the trace and the inputs are unchanged, and BUSY agrees with
the sequencer if it was set. -/
structure Silent (s t : State) : Prop where
  trace : t.trace = s.trace
  inputs : KeepsInputs s t
  busy_seq : s.busy = true → t.busy = t.seq.isSome

theorem KeepsInputs.refl (s : State) : KeepsInputs s s := ⟨rfl, rfl, rfl, rfl, rfl, rfl⟩

theorem KeepsInputs.trans {s t u : State} (h : KeepsInputs s t) (h' : KeepsInputs t u) : KeepsInputs s u :=
  ⟨h'.data.trans h.data, h'.dset.trans h.dset, h'.req.trans h.req, h'.cfg.trans h.cfg, h'.hostIn.trans h.hostIn,
    h'.hostReads.trans h.hostReads⟩

theorem silent_endRequest (c : Code) (b : List Byte) (s : State) : Silent s (endRequest c b s) :=
  ⟨rfl, ⟨rfl, rfl, rfl, rfl, rfl, rfl⟩, fun _ => rfl⟩

theorem silent_resume (p : Point) (b : List Byte) (s : State) : Silent s (resume p b s) := by
  rcases resume_cases p b s with ⟨o, a, n, q, h, -⟩ | ⟨o, a, v, q, h, -⟩ | ⟨l, h⟩
  · rw [h]; exact ⟨rfl, ⟨rfl, rfl, rfl, rfl, rfl, rfl⟩, id⟩
  · rw [h]; exact ⟨rfl, ⟨rfl, rfl, rfl, rfl, rfl, rfl⟩, id⟩
  · rw [h]; exact silent_endRequest .ok l s

theorem silent_returnFrame (p : Point) (r : Answer) (s : State) : Silent s (returnFrame p r s) := by
  cases r with
  | ok rx => exact silent_resume p rx.tail s
  | timeout => exact silent_endRequest .timeout [] s

/-- The pseudocode of a request up to its first event. -/
theorem silent_of_started {s u : State} (h : Started s u) : Silent s u := by
  cases h with
  | raised c _ => exact ⟨rfl, ⟨rfl, rfl, rfl, rfl, rfl, rfl⟩, id⟩
  | ended b => exact silent_endRequest .ok b s
  | failed => exact ⟨rfl, ⟨rfl, rfl, rfl, rfl, rfl, rfl⟩, fun _ => rfl⟩
  | bound => exact ⟨rfl, ⟨rfl, rfl, rfl, rfl, rfl, rfl⟩, id⟩
  | read a n p => exact ⟨rfl, ⟨rfl, rfl, rfl, rfl, rfl, rfl⟩, id⟩
  | write a v p => exact ⟨rfl, ⟨rfl, rfl, rfl, rfl, rfl, rfl⟩, id⟩

/-! A block step (R26): one event, then pseudocode. -/

theorem advanceAt_emits (pos : SeqPos) (s : State) : ∃ e, Silent (emit e s) (advanceAt pos s) := by
  cases pos with
  | hook c => exact ⟨.hook c, rfl, ⟨rfl, rfl, rfl, rfl, rfl, rfl⟩, fun _ => rfl⟩
  | initIdle => exact ⟨.cs .deassert, silent_endRequest .ok [] _⟩
  | frame tx ph p =>
    cases ph with
    | assert => exact ⟨.cs .assert, rfl, ⟨rfl, rfl, rfl, rfl, rfl, rfl⟩, id⟩
    | xfer => exact ⟨xferEvent tx s, rfl, ⟨rfl, rfl, rfl, rfl, rfl, rfl⟩, id⟩
    | deassert r => exact ⟨.cs .deassert, silent_returnFrame p r _⟩

theorem advance_emits {s : State} {pos : SeqPos} (h : s.seq = some pos) :
    ∃ e, Silent (emit e { s with hostIn := tick s.hostIn }) (advance s) := by
  rw [advance_some h]; exact advanceAt_emits pos _

/-- Settles O54: a block step is one `emit` and pseudocode that emits nothing. -/
theorem oneEventPerBlockStep : Obligations.OneEventPerBlockStep := by
  intro s pos h
  obtain ⟨e, he⟩ := advance_emits h
  exact ⟨e, he.trace⟩

theorem advance_data_dset {s : State} {pos : SeqPos} (h : s.seq = some pos) :
    (advance s).data = s.data ∧ (advance s).dset = s.dset := by
  obtain ⟨e, he⟩ := advance_emits h
  exact ⟨he.inputs.data, he.inputs.dset⟩

/-- While nothing the host has listed counts events, a block step keeps the host's list too. -/
theorem advance_keepsInputs {s : State} {pos : SeqPos} (h : s.seq = some pos) (hu : s.undisturbed = true) :
    KeepsInputs s (advance s) := by
  obtain ⟨e, he⟩ := advance_emits h
  rw [tick_of_undisturbed hu] at he
  exact ⟨he.inputs.data, he.inputs.dset, he.inputs.req, he.inputs.cfg, he.inputs.hostIn, he.inputs.hostReads⟩

@[simp] theorem resume_bound (p : Point) (b : List Byte) (s : State) : (resume p b s).bound = s.bound := by
  rcases resume_cases p b s with ⟨o, a, n, q, h, -⟩ | ⟨o, a, v, q, h, -⟩ | ⟨l, h⟩
  · simp [h]
  · simp [h]
  · simp [h]

@[simp] theorem advanceAt_bound (pos : SeqPos) (s : State) : (advanceAt pos s).bound = s.bound := by
  cases pos with
  | hook c => exact takeViolation_bound c s
  | initIdle => simp [advanceAt]
  | frame tx ph p =>
    cases ph with
    | assert => simp [advanceAt]
    | xfer => simp [advanceAt]
    | deassert r => cases r <;> simp [advanceAt, returnFrame]

/-! Runs of the block. -/

theorem run_trace_grows (k : Nat) (s : State) : s.trace <+: (run k s).trace := by
  refine run_induction (P := fun t => s.trace <+: t.trace) (fun t pos hpos ht => ?_) k s (List.prefix_refl _)
  obtain ⟨e, he⟩ := oneEventPerBlockStep t pos hpos
  rw [he]
  exact ht.trans (List.prefix_append _ _)

theorem run_data_dset (k : Nat) (s : State) : (run k s).data = s.data ∧ (run k s).dset = s.dset := by
  refine run_induction (P := fun t => t.data = s.data ∧ t.dset = s.dset) (fun t pos hpos ht => ?_) k s ⟨rfl, rfl⟩
  obtain ⟨hdata, hdset⟩ := advance_data_dset hpos
  exact ⟨hdata.trans ht.1, hdset.trans ht.2⟩

@[simp] theorem run_bound (k : Nat) (s : State) : (run k s).bound = s.bound :=
  run_induction (P := fun t => t.bound = s.bound)
    (fun t pos hpos ht => by rw [advance_some hpos, advanceAt_bound, ht]) k s rfl

theorem run_keepsInputs (k : Nat) {s : State} (hu : s.undisturbed = true) : KeepsInputs s (run k s) :=
  run_induction (P := KeepsInputs s)
    (fun _ _ hpos ht => ht.trans (advance_keepsInputs hpos (by rw [undisturbed_congr ht.hostIn, hu])))
    k s (KeepsInputs.refl s)

/-- A run takes a block step only while no host action is due: what such a step keeps, the run keeps. -/
theorem run_induction_due {P : State → Prop}
    (hstep : ∀ s p, s.seq = some p → s.interrupted = false → P s → P (advance s)) :
    ∀ (k : Nat) (s : State), P s → P (run k s)
  | 0, _, h => h
  | k + 1, s, h => by
    cases hp : s.seq with
    | none => rwa [run_idle _ hp]
    | some p =>
      cases hi : s.interrupted with
      | true => rwa [run_interrupted _ hi]
      | false => rw [run_succ k hp hi]; exact run_induction_due hstep k _ (hstep s p hp hi h)

theorem run_busy_seq (k : Nat) {s : State} (h : s.busy = s.seq.isSome) : (run k s).busy = (run k s).seq.isSome := by
  refine run_induction (P := fun t => t.busy = t.seq.isSome) (fun t pos hpos ht => ?_) k s h
  obtain ⟨e, he⟩ := advance_emits hpos
  exact he.busy_seq (by rw [emit_busy, ht, hpos]; rfl)

/-- `t` is in a request that began in `s` with a host read of `r` waiting for `d` events: the events emitted since and those
the read still waits for make up `d`. -/
def CountsDown (s : State) (d : Nat) (r : HostReg) (rest : List HostOp) (t : State) : Prop :=
  ∃ evs k, t.trace = s.trace ++ evs ∧ t.hostIn = .read k r :: rest ∧ evs.length + k = d

theorem run_countsDown {s u : State} {d : Nat} {r : HostReg} {rest : List HostOp} (k : Nat) (h : CountsDown s d r rest u) :
    CountsDown s d r rest (run k u) := by
  refine run_induction_due (fun t pos hpos hi ht => ?_) k u h
  obtain ⟨evs, j, htr, hin, hd⟩ := ht
  obtain ⟨e, he⟩ := advance_emits hpos
  cases j with
  | zero => simp [State.interrupted, hin] at hi
  | succ j =>
    refine ⟨evs ++ [e], j, ?_, ?_, by simp; omega⟩
    · rw [he.trace, emit_trace, htr, List.append_assoc]
    · rw [he.inputs.hostIn, emit_hostIn, hin]; rfl

/-! What an instruction keeps. -/

/-- Settles O57: a request's pseudocode up to its first event keeps DATA, a wire command only rebuilds the pending buffer, and the
rest is a run. -/
theorem requestsNeverWriteData : Obligations.RequestsNeverWriteData := by
  intro i s t h
  cases hi : i.isRequest with
  | true =>
    obtain ⟨-, -, u, hu, rfl⟩ := exec_request_next hi h
    have hin := (silent_of_started hu).inputs
    obtain ⟨hdata, hdset⟩ := run_data_dset maxEvents u
    exact ⟨hdata.trans hin.data, hdset.trans hin.dset⟩
  | false =>
    obtain ⟨_, _, p, tx, -, rfl, -⟩ := exec_command_next hi h
    exact run_data_dset _ _

/-- `Started` with the instruction known: only INIT binds or unbinds, and a frame returns to the instruction's first point. -/
inductive StartedBy (i : Instr) (s : State) : State → Prop where
  | raised (c : Cause) : StartedBy i s (raiseViolation c s)
  | ended (b : List Byte) : StartedBy i s (endRequest .ok b s)
  | failed (x c : Bool) (h : i = .init x c) : StartedBy i s (endRequest .constructionError [] { s with bound := false })
  | bound (x c : Bool) (h : i = .init x c) : StartedBy i s { s with bound := true, seq := some .initIdle }
  | read (a : RegAddr) (n : Nat) (p : Point) (h : firstPoint i = some p) : StartedBy i s (startRead a n p s)
  | write (a : RegAddr) (v : List Byte) (p : Point) (h : firstPoint i = some p) : StartedBy i s (startWrite a v p s)

theorem StartedBy.check {i : Instr} {s : State} {go : State → State} (holds : Bool) (c : Cause)
    (h : StartedBy i s (go s)) : StartedBy i s (check holds c go s) := by
  rcases check_cases holds c go s with ⟨-, hc⟩ | ⟨-, hc⟩
  · rw [hc]; exact h
  · rw [hc]; exact .raised c

theorem exec_startedBy {i : Instr} (hi : i.isRequest = true) (s : State) :
    ∃ start, exec i s = accept start s ∧ StartedBy i { s with busy := true, osfSeen := false }
      (start { s with busy := true, osfSeen := false }) := by
  cases i with
  | init x c =>
    refine ⟨fun s =>
      if x && c then { s with bound := true, seq := some .initIdle }
      else endRequest .constructionError [] { s with bound := false }, rfl, ?_⟩
    dsimp only
    split
    · exact .bound x c rfl
    · exact .failed x c rfl
  | rdreg a n => exact ⟨_, rfl, .check _ _ (.check _ _ (.read _ _ _ rfl))⟩
  | wrreg a n => exact ⟨_, rfl, .check _ _ (.check _ _ (.check _ _ (.write _ _ _ rfl)))⟩
  | swrst => exact ⟨_, rfl, .check _ _ (.write _ _ _ rfl)⟩
  | setdt => exact ⟨_, rfl, .check _ _ (.check _ _ (.check _ _ (.write _ _ _ rfl)))⟩
  | getdt => exact ⟨_, rfl, .check _ _ (.read _ _ _ rfl)⟩
  | setalm m => exact ⟨_, rfl, .check _ _ (.check _ _ (.check _ _ (.read _ _ _ rfl)))⟩
  | getirq => exact ⟨_, rfl, .check _ _ (.read _ _ _ rfl)⟩
  | clraf => exact ⟨_, rfl, .check _ _ (.read _ _ _ rfl)⟩
  | clrtf => exact ⟨_, rfl, .check _ _ (.read _ _ _ rfl)⟩
  | clrall => exact ⟨_, rfl, .check _ _ (.read _ _ _ rfl)⟩
  | bcdenc v => exact ⟨_, rfl, .check _ _ (.ended _)⟩
  | bcddec b => exact ⟨_, rfl, .ended _⟩
  | cmdRead a => cases hi
  | cmdWrite a => cases hi

theorem exec_next_startedBy {i : Instr} {s t : State} (hi : i.isRequest = true) (h : exec i s = .next t) :
    ∃ u, StartedBy i { s with busy := true, osfSeen := false } u ∧ t = run maxEvents u := by
  obtain ⟨start, he, hs⟩ := exec_startedBy hi s
  obtain ⟨-, -, ht⟩ := accept_next (he ▸ h)
  exact ⟨_, hs, ht⟩

theorem StartedBy.bound_eq {i : Instr} {s u : State} (h : StartedBy i s u) (hi : ∀ x c, i ≠ .init x c) :
    u.bound = s.bound := by
  cases h with
  | raised c => rfl
  | ended b => rfl
  | failed x c h => exact absurd h (hi x c)
  | bound x c h => exact absurd h (hi x c)
  | read a n p => rfl
  | write a v p => rfl

/-- Settles O58: block steps never change BOUND, and only INIT's pseudocode before its first event does. -/
theorem onlyInitChangesBound : Obligations.OnlyInitChangesBound := by
  intro i s t hinit h
  cases hi : i.isRequest with
  | true =>
    obtain ⟨u, hu, rfl⟩ := exec_next_startedBy hi h
    rw [run_bound, hu.bound_eq hinit]
  | false =>
    obtain ⟨_, _, p, tx, -, rfl, -⟩ := exec_command_next hi h
    rw [runFrame, run_bound]

/-! OSF_SEEN (R32): only GETDT's preliminary read can lead to it. -/

/-- OSF_SEEN is 0 and no frame in progress returns to where GETDT sets it. -/
structure OsfUnseen (s : State) : Prop where
  osfSeen : s.osfSeen = false
  point : ∀ tx ph p, s.seq = some (.frame tx ph p) → p ≠ .getdtSeconds

/-- No point of a request goes on to GETDT's preliminary read. -/
theorem resume_point {p q : Point} {b tx : List Byte} {ph : Phase} {s : State}
    (h : (resume p b s).seq = some (.frame tx ph q)) : q ≠ .getdtSeconds := by
  rintro rfl
  cases p <;> simp only [resume] at h
  case getdtSeconds =>
    unfold afterGetdtSeconds at h
    dsimp only at h
    split at h
    · cases h
    · cases h
  case setalmField m k =>
    unfold afterSetalmField at h
    split at h
    · cases h
    · cases h
  all_goals cases h

theorem OsfUnseen.resume {s : State} {p : Point} (h : s.osfSeen = false) (hp : p ≠ .getdtSeconds) (b : List Byte) :
    OsfUnseen (resume p b s) := by
  refine ⟨?_, fun _ _ _ => resume_point⟩
  rcases resume_cases p b s with ⟨o, a, n, q, hr, ho, -⟩ | ⟨o, a, v, q, hr, ho⟩ | ⟨l, hr⟩
  · rw [hr, startRead_osfSeen, ho.resolve_right hp, h]
  · rw [hr, startWrite_osfSeen, ho.resolve_right hp, h]
  · rw [hr, endRequest_osfSeen, h]

theorem OsfUnseen.advance {s : State} {pos : SeqPos} (hpos : s.seq = some pos) (h : OsfUnseen s) :
    OsfUnseen (advance s) := by
  rw [advance_some hpos]
  cases pos with
  | hook c => exact ⟨h.osfSeen, nofun⟩
  | initIdle => exact ⟨h.osfSeen, nofun⟩
  | frame tx ph p =>
    have hp := h.point tx ph p hpos
    cases ph with
    | assert => exact ⟨h.osfSeen, fun _ _ _ hq => by cases hq; exact hp⟩
    | xfer => exact ⟨h.osfSeen, fun _ _ _ hq => by cases hq; exact hp⟩
    | deassert r =>
      cases r with
      | ok rx =>
        have hosf : (emit (.cs .deassert) { s with hostIn := tick s.hostIn }).osfSeen = false := h.osfSeen
        exact .resume hosf hp rx.tail
      | timeout => exact ⟨h.osfSeen, nofun⟩

theorem OsfUnseen.run (k : Nat) {s : State} (h : OsfUnseen s) : OsfUnseen (run k s) :=
  run_induction (fun _ _ hpos ht => ht.advance hpos) k s h

/-- Only GETDT starts with its preliminary read. -/
theorem firstPoint_ne_getdtSeconds {i : Instr} {p : Point} (hi : i ≠ .getdt) (hp : firstPoint i = some p) :
    p ≠ .getdtSeconds := by
  rintro rfl
  cases i <;> cases hp
  exact hi rfl

theorem StartedBy.osfUnseen {i : Instr} {s u : State} (h : StartedBy i s u) (hi : i ≠ .getdt) (hs : s.osfSeen = false) :
    OsfUnseen u := by
  cases h with
  | raised c => exact ⟨hs, nofun⟩
  | ended b => exact ⟨hs, nofun⟩
  | failed x c => exact ⟨hs, nofun⟩
  | bound x c => exact ⟨hs, nofun⟩
  | read a n p hp => exact ⟨hs, fun _ _ _ hq => by cases hq; exact firstPoint_ne_getdtSeconds hi hp⟩
  | write a v p hp => exact ⟨hs, fun _ _ _ hq => by cases hq; exact firstPoint_ne_getdtSeconds hi hp⟩

/-- Settles O59: acceptance clears OSF_SEEN, and no request but GETDT stands in the frame after which it can be set. -/
theorem onlyGetdtSetsOsfSeen : Obligations.OnlyGetdtSetsOsfSeen := by
  intro i s t hi hg h
  obtain ⟨u, hu, rfl⟩ := exec_next_startedBy hi h
  exact ((hu.osfUnseen hg rfl).run maxEvents).osfSeen

/-! Requests that do not start, and their checks. -/

/-- Settles O33: a request is an acceptance. -/
theorem requestStepsUnlessHaltedOrBusy : Obligations.RequestStepsUnlessHaltedOrBusy := by
  intro i s hi
  obtain ⟨start, he, -⟩ := exec_request hi s
  rw [he]
  rcases accept_cases start s with ⟨hh, ha⟩ | ⟨hh, hb, ha⟩ | ⟨hh, hb, ha⟩
  · simp [hh, ha]
  · simp [hh, hb, ha]
  · simp [hh, hb, ha]

/-- Every request but INIT, BCDENC and BCDDEC checks the binding first (R144). -/
theorem exec_checks_binding {i : Instr} (hi : i.isRequest = true) (hinit : ∀ x c, i ≠ .init x c)
    (henc : ∀ v, i ≠ .bcdenc v) (hdec : ∀ b, i ≠ .bcddec b) (s : State) :
    ∃ go, exec i s = accept (check s.bound .unbound go) s := by
  cases i with
  | init x c => exact absurd rfl (hinit x c)
  | bcdenc v => exact absurd rfl (henc v)
  | bcddec b => exact absurd rfl (hdec b)
  | cmdRead a => cases hi
  | cmdWrite a => cases hi
  | _ => exact ⟨_, rfl⟩

/-- Settles O29: the first check of every such request is the binding. -/
theorem unboundRequestHalts : Obligations.UnboundRequestHalts := by
  intro i s hi hinit henc hdec hr hb
  obtain ⟨go, he⟩ := exec_checks_binding hi hinit henc hdec s
  rw [he]
  exact halts_of_raise hr (by rw [hb, check_false])

theorem dataSet_eq_false {s : State} {n k : Nat} (hk : k < 255) (hkn : k < n) (h : s.dset[k] = false) :
    s.dataSet n = false :=
  Bool.eq_false_iff.2 fun hall => by simp [(dataSet_iff s n).1 hall k hk hkn] at h

theorem alarmSet_eq_false {s : State} {m : BitVec 4} {k : Fin 4} (hm : m.getLsbD k.val = true)
    (h : s.dset[k.val] = false) : s.alarmSet m = false :=
  Bool.eq_false_iff.2 fun hall => by simp [(alarmSet_iff s m).1 hall k hm] at h

/-- Settles O30: the checks before UNSET_DATA (binding, count) are met and the one for DSET fails. -/
theorem unsetDataHalts : Obligations.UnsetDataHalts := by
  intro s hr hb
  refine ⟨fun a n k hk hkn hd => ?_, fun k hk hk7 hd => ?_, fun m k hm hd => ?_⟩
  · have hn : (n != 0) = true := by
      rw [bne_iff_ne]
      rintro rfl
      exact absurd hkn (Nat.not_lt_zero k)
    exact halts_of_raise hr (by rw [hb, check_true, hn, check_true, dataSet_eq_false hk hkn hd, check_false])
  · exact halts_of_raise hr (by rw [hb, check_true, dataSet_eq_false hk hk7 hd, check_false])
  · exact halts_of_raise hr (by rw [hb, check_true, alarmSet_eq_false hm hd, check_false])

/-- Settles O42: each event of the request counts the read down by one, and a request still busy has stopped because the read is
due. -/
theorem readLandsAfterItsEvents : Obligations.ReadLandsAfterItsEvents := by
  intro i s t d r rest hi hh h hbusy
  obtain ⟨-, -, u, hu, rfl⟩ := exec_request_next hi h
  have hs := silent_of_started hu
  have hstart : CountsDown s d r rest u := ⟨[], d, by simp [hs.trace], hs.inputs.hostIn.trans hh, by simp⟩
  obtain ⟨evs, k, htr, hin, hd⟩ := run_countsDown maxEvents hstart
  have hdue : (run maxEvents u).interrupted = true := by
    refine (run_maxEvents_ends u).resolve_left fun hnone => ?_
    rw [run_busy_seq maxEvents (hs.busy_seq rfl), hnone] at hbusy
    cases hbusy
  cases k with
  | zero => exact ⟨evs, htr, hd, hin⟩
  | succ k => simp [State.interrupted, hin] at hdue

/-! Steps. -/

theorem step_of_host {s : State} {op : HostOp} {rest : List HostOp} (h : s.turn = .host op rest) :
    step s = .next (hostAction op { s with hostIn := rest }) := by
  simp only [step, h]

/-- Settles O38: a read that is due is the next turn, and lands as `hostRead`. -/
theorem hostReadsAreSideEffectFree : Obligations.HostReadsAreSideEffectFree := by
  intro s n r rest hh hdue
  have hturn : s.turn = .host (.read n r) rest := by
    cases hs : s.seq with
    | none => simp [State.turn, hs, hh]
    | some pos =>
      have hn : n = 0 := hdue.resolve_left (by simp [hs])
      simp [State.turn, hs, hh, hn]
  refine ⟨_, s.readReg r, step_of_host hturn, rfl, ?_, ?_, ?_, ?_⟩
  · rintro rfl; rfl
  · rintro rfl; rfl
  · rintro rfl; rfl
  · rintro i rfl hlt
    exact if_pos hlt

/-- A host action but block reset leaves the trace. -/
theorem hostAction_trace {op : HostOp} (h : ∀ n, op ≠ .reset n) (s : State) : (hostAction op s).trace = s.trace := by
  cases op with
  | writeReq w => rfl
  | writeData i v => exact writeData_trace i v s
  | read n r => exact hostRead_trace r s
  | reset n => exact absurd rfl (h n)

/-- Settles O55: a run appends events, and a host action that is no reset leaves the trace. -/
theorem traceOnlyGrows : Obligations.TraceOnlyGrows := by
  intro s t h hreset
  cases step_cases h with
  | waited _ _ ht => rw [ht]
  | requested w rest u _ _ _ _ hu ht =>
    have htrace : u.trace = s.trace := (silent_of_started hu).trace
    rw [ht, ← htrace]
    exact run_trace_grows maxEvents u
  | acted op rest hh _ _ ht =>
    rw [ht, hostAction_trace (fun n hop => hreset n rest (hop ▸ hh))]
  | commanded _ _ p tx _ _ ht =>
    rw [ht]
    exact run_trace_grows _ { s with seq := some (.frame tx .assert p) }
  | ran _ k _ ht => rw [ht]; exact run_trace_grows k s

/-- Settles O37: a busy block only runs while a write waits, and its run keeps the inputs. -/
theorem writesAreHeldWhileBusy : Obligations.WritesAreHeldWhileBusy := by
  intro s t op rest hs hh hop h
  have hu : s.undisturbed = true := by
    rcases hop with ⟨w, rfl⟩ | ⟨i, v, rfl⟩ <;> simp [State.undisturbed, hh]
  have hkeeps : KeepsInputs s t := by
    cases step_cases h with
    | waited hidle => exact absurd hidle hs
    | requested _ _ _ hidle => exact absurd hidle hs
    | acted op' rest' hh' _ hdue ht =>
      cases hh.symm.trans hh'
      rcases hdue with hidle | ⟨r, rfl⟩ | rfl
      · exact absurd hidle hs
      · simp at hop
      · simp at hop
    | commanded _ _ p tx _ _ ht =>
      have hrun := run_keepsInputs (s := { s with seq := some (.frame tx .assert p) }) (eventsLeft (.frame tx .assert p)) hu
      rw [ht]
      exact ⟨hrun.data, hrun.dset, hrun.req, hrun.cfg, hrun.hostIn, hrun.hostReads⟩
    | ran _ k _ ht => rw [ht]; exact run_keepsInputs k hu
  exact ⟨hkeeps.hostIn, hkeeps.data, hkeeps.dset, hkeeps.req⟩

/-- Settles O36: with no request in progress the write is the next turn. -/
theorem dataWriteSetsByteAndDset : Obligations.DataWriteSetsByteAndDset := by
  intro s i v rest hs hh
  have hturn : s.turn = .host (.writeData i v) rest := by simp [State.turn, hs, hh]
  exact step_of_host hturn

/-- Settles O43: with no request in progress the write to REQ is the next turn. -/
theorem stepRunsTheDecodedRequest : Obligations.StepRunsTheDecodedRequest := by
  intro s w rest i hs hh hd
  have hturn : s.turn = .request w rest := by simp [State.turn, hs, hh]
  simp only [step, hturn, hd]
  rfl

/-! STATUS and HALT_CAUSE (R21, R141). -/

/-- The fields of a byte put together as STATUS is. -/
theorem statusByte_fields (busy bound halted osf : Bool) (c : BitVec 3) :
    let b : Byte := 0#1 ++ BitVec.ofBool busy ++ BitVec.ofBool bound ++ BitVec.ofBool halted ++ BitVec.ofBool osf ++ c
    b.extractLsb' 0 3 = c ∧ b.getLsbD 3 = osf ∧ b.getLsbD 4 = halted ∧ b.getLsbD 5 = bound ∧ b.getLsbD 6 = busy
      ∧ b.getLsbD 7 = false := by
  revert busy bound halted osf c; decide

/-- Settles O41: the fields of STATUS are read back from the byte, and the codes are those of R21 and R141. -/
theorem statusBitsAsTheSpecPlacesThem : Obligations.StatusBitsAsTheSpecPlacesThem := by
  refine ⟨fun s => ?_, rfl, rfl, rfl, rfl, rfl, rfl⟩
  obtain ⟨hcode, hflags⟩ := statusByte_fields s.busy s.bound s.halted s.osfSeen s.code.bits
  exact ⟨hcode.trans (by cases s.code <;> rfl), hflags⟩

end Sys2Proof.Machine
end

section
/-! PROOF. Every step keeps `Safe`: what a live request's pseudocode keeps between two events, a block step from every position,
and from these every machine step (R51, R90, R98, R143). -/

namespace Sys2Proof.Machine

/-! A block that has not halted. -/

/-- The three marks of a halt (R143) are off, and the parameters are those of R7. -/
structure Live (s : State) : Prop where
  not_halted : s.halted = false
  no_cause : s.haltCause = .noCause
  no_violation : s.code ≠ .contractViolation
  cfg_ok : s.cfg.wellFormed = true

/-- A state with the same marks and parameters is live too. -/
theorem Live.congr {s t : State} (h : Live s)
    (heq : (t.halted, t.haltCause, t.code, t.cfg) = (s.halted, s.haltCause, s.code, s.cfg)) : Live t := by
  simp only [Prod.mk.injEq] at heq
  obtain ⟨hhalted, hcause, hcode, hcfg⟩ := heq
  exact ⟨hhalted ▸ h.not_halted, hcause ▸ h.no_cause, hcode ▸ h.no_violation, hcfg ▸ h.cfg_ok⟩

theorem Safe.live {s : State} (h : Safe s) (hh : s.halted = false) : Live s where
  not_halted := hh
  no_cause := by
    by_contra hc
    simp [h.halted_cause.2 hc] at hh
  no_violation hc := by simp [h.halted_code.2 hc] at hh
  cfg_ok := h.cfg_ok

/-- A request in progress is on a live block (R146). -/
theorem Safe.live_of_busy {s : State} {pos : SeqPos} (h : Safe s) (hpos : s.seq = some pos) : Live s :=
  h.live (Bool.eq_false_iff.2 fun hh => by simp [h.halted_idle hh] at hpos)

/-- A live block is safe when its position, its trace and its chip-select agree. -/
theorem Live.safe {s : State} (h : Live s) (hbusy : s.busy = s.seq.isSome)
    (hpos : ∀ p, s.seq = some p → posOk s.bound p = true) (htrace : scan s.trace = some (lineAt s.seq))
    (hline : s.cs = .asserted ↔ lineAt s.seq ≠ .outside)
    (hknown : s.bound = true → s.seq ≠ some .initIdle → s.cs ≠ .unknown) : Safe s where
  busy_seq := hbusy
  pos_ok := hpos
  trace_ok := htrace
  cs_line := hline
  cs_known := hknown
  halted_cause := by simp [h.not_halted, h.no_cause]
  halted_code := by simp [h.not_halted, h.no_violation]
  halted_idle hh := by simp [h.not_halted] at hh
  cfg_ok := h.cfg_ok

/-! The pseudocode of a request between two events. -/

/-- A request runs on a live block, outside every frame, with CS known if the block is bound; its next position is not chosen
yet. -/
structure BetweenEvents (s : State) : Prop where
  live : Live s
  busy : s.busy = true
  outside : scan s.trace = some .outside
  not_asserted : s.cs ≠ .asserted
  cs_known : s.bound = true → s.cs ≠ .unknown

theorem BetweenEvents.with_osfSeen {s : State} (h : BetweenEvents s) (o : Bool) : BetweenEvents { s with osfSeen := o } :=
  ⟨h.live.congr rfl, h.busy, h.outside, h.not_asserted, h.cs_known⟩

theorem BetweenEvents.unbind {s : State} (h : BetweenEvents s) : BetweenEvents { s with bound := false } :=
  ⟨h.live.congr rfl, h.busy, h.outside, h.not_asserted, nofun⟩

/-- The request may end, but for a violation, which has an event of its own. -/
theorem BetweenEvents.endRequest {s : State} (h : BetweenEvents s) {c : Code} (hc : c ≠ .contractViolation) (b : List Byte) :
    Safe (endRequest c b s) :=
  Live.safe ⟨h.live.not_halted, h.live.no_cause, hc, h.live.cfg_ok⟩ rfl nofun h.outside
    (iff_of_false h.not_asserted (· rfl)) fun hb _ => h.cs_known hb

/-- The request may go on to any possible position that is outside a frame. -/
theorem BetweenEvents.goTo {s : State} (h : BetweenEvents s) {pos : SeqPos} (hpos : posOk s.bound pos = true)
    (hline : lineAt (some pos) = .outside) : Safe { s with seq := some pos } :=
  Live.safe (h.live.congr rfl) h.busy (fun p hp => by cases hp; exact hpos) (h.outside.trans (congrArg some hline.symm))
    (iff_of_false h.not_asserted (· hline)) fun hb _ => h.cs_known hb

theorem BetweenEvents.startRead {s : State} (h : BetweenEvents s) (hb : s.bound = true) (a : RegAddr) {n : Nat} (p : Point)
    (h1 : 1 ≤ n) (h2 : n ≤ 255) : Safe (startRead a n p s) :=
  h.goTo (by simp [posOk, hb, readBuffer_wellFormed a n h1 h2]) rfl

theorem BetweenEvents.startWrite {s : State} (h : BetweenEvents s) (hb : s.bound = true) (a : RegAddr) {v : List Byte}
    (p : Point) (h1 : 1 ≤ v.length) (h2 : v.length ≤ 255) : Safe (startWrite a v p s) :=
  h.goTo (by simp [posOk, hb, writeBuffer_wellFormed a v h1 h2]) rfl

/-- INIT alone may go on without a known CS: its event makes it known (R95). -/
theorem BetweenEvents.bind {s : State} (h : BetweenEvents s) : Safe { s with bound := true, seq := some .initIdle } :=
  Live.safe (h.live.congr rfl) h.busy (fun p hp => by cases hp; rfl) h.outside (iff_of_false h.not_asserted (· rfl))
    fun _ hne => absurd rfl hne

/-- The start of a request, up to its first event. -/
theorem BetweenEvents.started {s u : State} (h : BetweenEvents s) (hu : Started s u) : Safe u := by
  cases hu with
  | raised c hc => exact h.goTo (by simpa [posOk] using hc) rfl
  | ended b => exact h.endRequest (by decide) b
  | failed => exact h.unbind.endRequest (by decide) []
  | bound => exact h.bind
  | read a n p hb h1 h2 => exact h.startRead hb a p h1 h2
  | write a v p hb h1 h2 => exact h.startWrite hb a p h1 h2

/-- The rest of a request after one of its frames, up to its next event. -/
theorem BetweenEvents.resume {s : State} (h : BetweenEvents s) (hb : s.bound = true) (p : Point) (b : List Byte) :
    Safe (resume p b s) := by
  rcases resume_cases p b s with ⟨o, a, n, q, hr, -, h1, h7⟩ | ⟨o, a, v, q, hr, -⟩ | ⟨l, hr⟩
  · rw [hr]; exact (h.with_osfSeen o).startRead hb a q h1 (by omega)
  · rw [hr]; exact (h.with_osfSeen o).startWrite hb a q (by simp) (by simp)
  · rw [hr]; exact h.endRequest (by decide) l

theorem BetweenEvents.returnFrame {s : State} (h : BetweenEvents s) (hb : s.bound = true) (p : Point) (r : Answer) :
    Safe (returnFrame p r s) := by
  cases r with
  | ok rx => exact h.resume hb p rx.tail
  | timeout => exact h.endRequest (by decide) []

/-! A block step. -/

/-- The trace of a block in progress, with the event of its position added. -/
theorem Safe.scan_emit {s : State} {pos : SeqPos} {e : Event} {l : Line} (h : Safe s) (hpos : s.seq = some pos)
    (hnext : (lineAt (some pos)).next e = some l) : scan (s.trace ++ [e]) = some l := by
  rw [scan_append, h.trace_ok, hpos]
  exact hnext

/-- `CS(DEASSERT)`, of INIT or at the end of a frame, leaves the request between two events. -/
theorem Safe.deassert {s : State} {pos : SeqPos} (h : Safe s) (hpos : s.seq = some pos)
    (hnext : (lineAt (some pos)).next (.cs .deassert) = some .outside) : BetweenEvents (emit (.cs .deassert) s) where
  live := (h.live_of_busy hpos).congr rfl
  busy := by rw [emit_busy, h.busy_seq, hpos]; rfl
  outside := h.scan_emit hpos hnext
  not_asserted := nofun
  cs_known := nofun

/-- The hook of a violation halts the block in a safe state (R143). -/
theorem Safe.takeViolation {s : State} {c : Cause} (h : Safe s) (hpos : s.seq = some (.hook c)) :
    Safe (takeViolation c s) where
  busy_seq := rfl
  pos_ok := nofun
  trace_ok := h.scan_emit hpos rfl
  cs_line := by rw [takeViolation_cs, h.cs_line, hpos]; rfl
  cs_known hb _ := h.cs_known hb (by simp [hpos])
  halted_cause := iff_of_true rfl (by simpa [posOk] using h.pos_ok _ hpos)
  halted_code := iff_of_true rfl rfl
  halted_idle _ := rfl
  cfg_ok := h.cfg_ok

/-- `CS(ASSERT)` opens the frame that waits. -/
theorem Safe.assert {s : State} {tx : List Byte} {p : Point} (h : Safe s) (hpos : s.seq = some (.frame tx .assert p)) :
    Safe (advanceAt (.frame tx .assert p) s) :=
  have hok := h.pos_ok _ hpos
  Live.safe ((h.live_of_busy hpos).congr rfl) (by simp [advanceAt, h.busy_seq, hpos])
    (fun q hq => by cases hq; exact hok) (h.scan_emit hpos rfl) (iff_of_true rfl nofun) nofun

/-- The transfer of an open frame: its buffer is well formed and its answer fits (R62, R91). -/
theorem Safe.transfer {s : State} {tx : List Byte} {p : Point} (h : Safe s) (hpos : s.seq = some (.frame tx .xfer p)) :
    Safe (advanceAt (.frame tx .xfer p) s) := by
  have hasserted : s.cs = .asserted := h.cs_line.2 (by simp [hpos, lineAt])
  obtain ⟨hbound, htx⟩ : s.bound = true ∧ TxBuffer.wellFormed tx = true := by simpa [posOk] using h.pos_ok _ hpos
  have hfits := answerNo_fits s 0 tx.length
  refine Live.safe ((h.live_of_busy hpos).congr rfl) (by simp [advanceAt, h.busy_seq, hpos]) (fun q hq => ?_)
    (h.scan_emit hpos (e := xferEvent tx s) (l := .transferred) ?_) (iff_of_true hasserted nofun) fun _ _ => ?_
  · cases hq
    simp [advanceAt, posOk, hbound, htx, hfits]
  · simp [lineAt, xferEvent, Line.next, htx, hfits]
  · simp [advanceAt, xferEvent, hasserted]

theorem Safe.advanceAt {s : State} {pos : SeqPos} (h : Safe s) (hpos : s.seq = some pos) : Safe (advanceAt pos s) := by
  cases pos with
  | hook c => exact h.takeViolation hpos
  | initIdle => exact (h.deassert hpos rfl).endRequest (by decide) []
  | frame tx ph p =>
    cases ph with
    | assert => exact h.assert hpos
    | xfer => exact h.transfer hpos
    | deassert r =>
      have hok := h.pos_ok _ hpos
      simp only [posOk, Bool.and_eq_true] at hok
      obtain ⟨⟨hbound, -⟩, -⟩ := hok
      exact (h.deassert hpos rfl).returnFrame hbound p r

/-- Nothing in `Safe` is about the host's list. -/
theorem Safe.with_hostIn {s : State} (h : Safe s) (l : List HostOp) : Safe { s with hostIn := l } :=
  ⟨h.busy_seq, h.pos_ok, h.trace_ok, h.cs_line, h.cs_known, h.halted_cause, h.halted_code, h.halted_idle, h.cfg_ok⟩

theorem Safe.run {s : State} (h : Safe s) (k : Nat) : Safe (run k s) := by
  refine run_induction (P := Safe) (fun t pos hpos ht => ?_) k s h
  rw [advance_some hpos]
  exact (ht.with_hostIn (tick t.hostIn)).advanceAt hpos

/-! A machine step. -/

/-- A host action that is no request keeps every field `Safe` is about, or is block reset (R29, R30, R160). -/
theorem Safe.hostAction {s : State} (h : Safe s) (op : HostOp) : Safe (hostAction op s) := by
  cases op with
  | reset n => exact Live.safe ⟨rfl, rfl, nofun, h.cfg_ok⟩ rfl nofun rfl (iff_of_false nofun (· rfl)) nofun
  | _ => exact ⟨h.busy_seq, h.pos_ok, h.trace_ok, h.cs_line, h.cs_known, h.halted_cause, h.halted_code, h.halted_idle, h.cfg_ok⟩

/-- An idle block that has not halted accepts a request between two events (R28). -/
theorem Safe.accepted {s : State} (h : Safe s) (hidle : s.seq = none) (hh : s.halted = false) (w : ReqWord)
    (rest : List HostOp) : BetweenEvents { takeRequest w rest s with busy := true, osfSeen := false } where
  live := (h.live hh).congr rfl
  busy := rfl
  outside := by
    have htrace := h.trace_ok
    rw [hidle] at htrace
    exact htrace
  not_asserted hcs := h.cs_line.1 hcs (by rw [hidle]; rfl)
  cs_known hb := h.cs_known hb (by simp [hidle])

/-- A wire command rebuilds the pending buffer as a well-formed one (R62, R92, R93), so its frame still waits on a safe block. -/
theorem Safe.rebuilt {s : State} {c : Byte} {payload tx : List Byte} {p : Point} (h : Safe s)
    (hpos : s.seq = some (.frame (c :: payload) .assert p))
    (htx : (∃ a, c = cmdByte .read a ∧ tx = readBuffer a payload.length) ∨ ∃ a, c = cmdByte .write a ∧ tx = c :: payload) :
    Safe { s with seq := some (.frame tx .assert p) } := by
  obtain ⟨hbound, hpending⟩ : s.bound = true ∧ TxBuffer.wellFormed (c :: payload) = true := by
    simpa [posOk] using h.pos_ok _ hpos
  have hwf : TxBuffer.wellFormed tx = true := by
    obtain ⟨h1, h2⟩ := wellFormed_payload hpending
    rcases htx with ⟨a, -, rfl⟩ | ⟨a, -, rfl⟩
    · exact readBuffer_wellFormed a _ h1 h2
    · exact hpending
  have hbusy := h.busy_seq
  have htrace := h.trace_ok
  have hline := h.cs_line
  rw [hpos] at hbusy htrace hline
  exact Live.safe ((h.live_of_busy hpos).congr rfl) hbusy (fun q hq => by cases hq; simp [posOk, hbound, hwf]) htrace hline
    fun hb _ => h.cs_known hb (by simp [hpos])

/-- Settles O51: a step that does not just wait is a host action, or a run from a safe state: that of the block itself, that with the
pending buffer rebuilt, or that at a request's first event. -/
theorem stepKeepsSafe : Obligations.StepKeepsSafe := by
  intro s t h hstep
  cases step_cases hstep with
  | waited _ _ ht => rw [ht]; exact h
  | requested w rest u hidle _ hh _ hu ht => rw [ht]; exact ((h.accepted hidle hh w rest).started hu).run maxEvents
  | acted op rest _ _ _ ht => rw [ht]; exact (h.with_hostIn rest).hostAction op
  | commanded _ _ p tx hpos htx ht => rw [ht]; exact (h.rebuilt hpos htx).run _
  | ran _ k _ ht => rw [ht]; exact h.run k

end Sys2Proof.Machine
end

section
/-! PROOF. The encoding: the request word and the decoder meet in the word's fields (R64 to R66), so decoding and encoding undo
each other and the illegal words are those of the opcode map (R69); the command byte (R61, R63); the assembler (R72, R73). -/

namespace Sys2Proof

/-! Request words. -/

/-- A word decodes to what its opcode stands for, if none of its reserved bits is set. -/
theorem decodeReq_eq_ok_iff {w : ReqWord} {i : Instr} :
    decodeReq w = .ok i ↔ requestOf w = some i ∧ ReqWord.legal w = true := by
  unfold decodeReq
  cases requestOf w with
  | none => simp
  | some j => cases ReqWord.legal w <;> simp

/-- The must-be-zero bits are given for the assigned opcodes only (R65). -/
theorem illegal_of_requestOf_none {w : ReqWord} (h : requestOf w = none) : ReqWord.legal w = false := by
  unfold requestOf at h
  split at h
  case h_14 => simp_all [ReqWord.legal, mustBeZero, opField]
  all_goals cases h

theorem decodeReq_eq_error_iff {w : ReqWord} : (∃ e, decodeReq w = .error e) ↔ ReqWord.legal w = false := by
  unfold decodeReq
  cases hreq : requestOf w with
  | none => simp [illegal_of_requestOf_none hreq]
  | some i => cases ReqWord.legal w <;> simp

/-- Every instruction encodes without a reserved bit (R65, R60). -/
theorem encode_legal (i : Instr) : (encode i).legal = true := by
  cases i with
  | init x c => exact Laws.LegalEncoding.init x c
  | rdreg a n => exact Laws.LegalEncoding.rdreg a n
  | wrreg a n => exact Laws.LegalEncoding.wrreg a n
  | swrst => exact Laws.LegalEncoding.swrst
  | setdt => exact Laws.LegalEncoding.setdt
  | getdt => exact Laws.LegalEncoding.getdt
  | setalm m => exact Laws.LegalEncoding.setalm m
  | getirq => exact Laws.LegalEncoding.getirq
  | clraf => exact Laws.LegalEncoding.clraf
  | clrtf => exact Laws.LegalEncoding.clrtf
  | clrall => exact Laws.LegalEncoding.clrall
  | bcdenc v => exact Laws.LegalEncoding.bcdenc v
  | bcddec b => exact Laws.LegalEncoding.bcddec b
  | cmdRead a => exact Laws.LegalEncoding.cmdRead a
  | cmdWrite a => exact Laws.LegalEncoding.cmdWrite a

/-- The fields of an encoded request give its opcode and its operands back (R65, R66). -/
theorem requestOf_encode {i : Instr} {w : ReqWord} (h : encode i = .req16 w) : requestOf w = some i := by
  cases i with
  | init x c => cases h; revert x c; decide
  | setalm m => cases h; revert m; decide
  | cmdRead a => cases h
  | cmdWrite a => cases h
  | _ => cases h; simp [requestOf]

/-- With the reserved bits 0, an opcode and its operand fields make up the whole word (R65, R69). -/
theorem encode_of_requestOf {w : ReqWord} {i : Instr} (h : requestOf w = some i) (hl : ReqWord.legal w = true) :
    encode i = .req16 w := by
  have hinit : ∀ imm : Byte, imm &&& 0xFC = 0 → 0#6 ++ BitVec.ofBool (imm.getLsbD 1) ++ BitVec.ofBool (imm.getLsbD 0) = imm := by
    decide +kernel
  have hsetalm : ∀ imm : Byte, imm &&& 0xF0 = 0 → 0#4 ++ imm.extractLsb' 0 4 = imm := by decide +kernel
  unfold requestOf at h
  rw [← reqWord_fields w] at hl ⊢
  rw [legal_reqWord] at hl
  generalize opField w = op, regField w = reg, immField w = imm at h hl
  have hofNat : ∀ {k}, op.toNat = k → op = BitVec.ofNat 4 k := by rintro _ rfl; simp
  split at h
  all_goals cases h
  all_goals obtain rfl := hofNat ‹op.toNat = _›
  case h_1 =>
    obtain ⟨rfl, himm⟩ : reg = 0 ∧ imm &&& 0xFC = 0 := by simpa using hl
    rw [encode, hinit imm himm]; rfl
  case h_2 | h_3 => rfl
  case h_7 =>
    obtain ⟨rfl, himm⟩ : reg = 0 ∧ imm &&& 0xF0 = 0 := by simpa using hl
    rw [encode, hsetalm imm himm]; rfl
  case h_12 | h_13 =>
    obtain rfl : reg = 0 := by simpa using hl
    rfl
  case h_4 | h_5 | h_6 | h_8 | h_9 | h_10 | h_11 =>
    obtain ⟨rfl, rfl⟩ : reg = 0 ∧ imm = 0 := by simpa using hl
    rfl

/-! Command bytes. -/

theorem decodeCmd_cmdByte_read (a : RegAddr) : decodeCmd (cmdByte .read a) = .ok (.cmdRead a) := by revert a; decide

theorem decodeCmd_cmdByte_write (a : RegAddr) : decodeCmd (cmdByte .write a) = .ok (.cmdWrite a) := by revert a; decide

theorem decodeCmd_encode {i : Instr} {b : Byte} (h : encode i = .wire8 b) : decodeCmd b = .ok i := by
  cases i with
  | cmdRead a => cases h; exact decodeCmd_cmdByte_read a
  | cmdWrite a => cases h; exact decodeCmd_cmdByte_write a
  | _ => cases h

/-! The round trips. -/

/-- Settles O46: an encoded request is a legal word whose fields are its operands, an encoded command a byte that decodes to it. -/
theorem decodeOfEncode : Obligations.DecodeOfEncode := by
  intro i
  have hlegal := encode_legal i
  cases he : encode i with
  | req16 w =>
    rw [he] at hlegal
    exact decodeReq_eq_ok_iff.2 ⟨requestOf_encode he, hlegal⟩
  | wire8 b => exact decodeCmd_encode he

/-- Settles O47: what decodes is legal, and a legal word or byte holds nothing but the fields that are encoded again. -/
theorem encodeOfDecode : Obligations.EncodeOfDecode := by
  intro c i h
  cases c with
  | req16 w =>
    obtain ⟨hreq, hlegal⟩ := decodeReq_eq_ok_iff.1 h
    exact encode_of_requestOf hreq hlegal
  | wire8 b =>
    rcases decodeCmd_cases h with ⟨a, rfl, rfl⟩ | ⟨a, rfl, rfl⟩
    · rfl
    · rfl

/-- Settles O45: each sample is the encoding of its instruction. -/
theorem sampleWordsDecode : Obligations.SampleWordsDecode :=
  ⟨decodeOfEncode (.init true true), decodeOfEncode (.init true false), decodeOfEncode (.rdreg 2 7),
    decodeOfEncode (.wrreg 0xF 2), decodeOfEncode (.setalm 1), decodeOfEncode .clrall, decodeOfEncode (.bcddec 0xFF),
    decodeOfEncode (.cmdRead 2), decodeOfEncode (.cmdWrite 0)⟩

/-! The illegal words (R69), by the numbers of a word's fields, and the command byte's number. -/

theorem illegal_reqWord_iff (op : BitVec 4) (reg : RegAddr) (imm : Byte) :
    ReqWord.legal (reqWord op reg imm) = false ↔
      op.toNat = 0 ∨ op.toNat = 14 ∨ op.toNat = 15 ∨ (op.toNat = 1 ∧ (reg.toNat ≠ 0 ∨ 4 ≤ imm.toNat))
        ∨ (op.toNat = 7 ∧ (reg.toNat ≠ 0 ∨ 16 ≤ imm.toNat))
        ∨ ((op.toNat = 4 ∨ op.toNat = 5 ∨ op.toNat = 6 ∨ op.toNat = 8 ∨ op.toNat = 9 ∨ op.toNat = 10 ∨ op.toNat = 11)
          ∧ (reg.toNat ≠ 0 ∨ imm.toNat ≠ 0))
        ∨ ((op.toNat = 12 ∨ op.toNat = 13) ∧ reg.toNat ≠ 0) := by
  have hinit : ∀ imm : Byte, (imm &&& 0xFC == 0) = decide (imm.toNat < 4) := by decide +kernel
  have hsetalm : ∀ imm : Byte, (imm &&& 0xF0 == 0) = decide (imm.toNat < 16) := by decide +kernel
  have hzero : ∀ {n : Nat} (x : BitVec n), (x == 0) = decide (x.toNat = 0) := by
    intro n x
    rw [Bool.eq_iff_iff, beq_iff_eq, decide_eq_true_iff, BitVec.toNat_eq]
    rfl
  rw [legal_reqWord, hinit, hsetalm, hzero, hzero]
  have hop := op.isLt
  generalize op.toNat = n at hop
  -- one row of the opcode map (R65) for each of the 16 opcodes
  interval_cases n <;> simp <;> omega

/-- The numbers of a word's fields (R64). -/
theorem fields_toNat (w : ReqWord) :
    (opField w).toNat = w.toNat / 4096 ∧ (regField w).toNat = w.toNat / 256 % 16 ∧ (immField w).toNat = w.toNat % 256 := by
  have hw := reqWord_toNat (opField w) (regField w) (immField w)
  have hreg := (regField w).isLt
  have himm := (immField w).isLt
  rw [reqWord_fields] at hw
  omega

/-- Settles O48: the direction and SA bits of the formula are the constants, and no address reaches into them. -/
theorem commandByteFormula : Obligations.CommandByteFormula :=
  ⟨fun _ => rfl, fun _ => rfl, by decide, rfl, rfl⟩

end Sys2Proof

namespace Sys2Proof.Machine

/-! Words the block refuses (R69, R70). -/

/-- Settles O10: the binding is there, and the count is checked next, before DSET (R144). -/
theorem zeroCountHalts : Obligations.ZeroCountHalts := by
  intro a s hr hb
  have hcount : ((0 : Byte) != 0) = false := rfl
  exact ⟨halts_of_raise hr (by rw [hb, check_true, hcount, check_false]),
    halts_of_raise hr (by rw [hb, check_true, hcount, check_false])⟩

theorem step_of_illegal_word {s : State} {w : ReqWord} {rest : List HostOp} {e : Reject} (hs : s.seq = none)
    (hh : s.hostIn = .writeReq w :: rest) (he : decode (.req16 w) = .error e) :
    step s = rejectIllegal { s with req := w, hostIn := rest } := by
  have hturn : s.turn = .request w rest := by simp [State.turn, hs, hh]
  simp only [step, hturn, he]
  rfl

/-- Settles O32: a word fails to decode exactly when it is not legal, which its fields tell by number; its request is accepted and
raises at once. -/
theorem illegalWordHalts : Obligations.IllegalWordHalts := by
  refine ⟨fun w => ?_, fun s w rest e hs hh hr he => ?_⟩
  · have hfields := illegal_reqWord_iff (opField w) (regField w) (immField w)
    obtain ⟨hop, hreg, himm⟩ := fields_toNat w
    rw [reqWord_fields, hop, hreg, himm] at hfields
    exact decodeReq_eq_error_iff.trans hfields
  · rw [step_of_illegal_word hs hh he]
    exact halts_of_raise hr rfl

/-! Command bytes in the trace (R63). -/

/-- Every transfer in the trace of a safe state has a well-formed buffer: the scan passes over it (R62, R98). -/
theorem Safe.xfer_wellFormed {s : State} {tx : List Byte} {n t : Nat} {r : Answer} (h : Safe s)
    (hmem : .xfer tx n t r ∈ s.trace) : TxBuffer.wellFormed tx = true := by
  obtain ⟨pre, post, htrace⟩ := List.append_of_mem hmem
  obtain ⟨m, -, hscan⟩ := scan_prefix (htrace ▸ h.trace_ok)
  rw [List.foldlM_cons] at hscan
  obtain ⟨m', hnext, -⟩ := Option.bind_eq_some_iff.1 hscan
  obtain ⟨-, -, hwf⟩ := Line.next_xfer hnext
  exact hwf

/-- A well-formed buffer begins with a legal command byte (R62). -/
theorem exists_command_of_wellFormed {tx : List Byte} (h : TxBuffer.wellFormed tx = true) :
    ∃ c payload, tx = c :: payload ∧ CmdByte.legal c = true := by
  cases tx with
  | nil => cases h
  | cons c payload =>
    simp only [TxBuffer.wellFormed, Bool.and_eq_true] at h
    obtain ⟨⟨⟨hlegal, -⟩, -⟩, -⟩ := h
    exact ⟨c, payload, rfl, hlegal⟩

/-- A legal command byte has SA = 1 and bits 6:5 = 0 (R60). -/
theorem cmdByte_bits_of_legal {c : Byte} (h : CmdByte.legal c = true) :
    c.getLsbD 4 = true ∧ c.getLsbD 5 = false ∧ c.getLsbD 6 = false := by
  have hmask : c &&& 0x70 = 0x10 := by simpa [CmdByte.legal] using h
  have hbit : ∀ i, (c &&& 0x70).getLsbD i = (0x10 : Byte).getLsbD i := fun i => by rw [hmask]
  exact ⟨by simpa using hbit 4, by simpa using hbit 5, by simpa using hbit 6⟩

/-- Settles O53: the transfers of a safe trace have well-formed buffers, and these begin with a legal command byte. -/
theorem onlyRegisterCommandsAreSent : Obligations.OnlyRegisterCommandsAreSent := by
  intro s tx n p r h hmem
  obtain ⟨c, payload, htx, hlegal⟩ := exists_command_of_wellFormed (h.xfer_wellFormed hmem)
  exact ⟨c, payload, htx, cmdByte_bits_of_legal hlegal⟩

/-! The assembler (R72, R73). -/

theorem dataOps_singleton (v : Byte) : dataOps [v] = [.writeData 0 v] := by
  rw [dataOps, List.finRange_succ, List.zipWith_cons_cons, List.zipWith_nil_right]

theorem reqWord_bcdenc (v : Byte) : reqWord 0xC 0 v = 0xC000#16 ||| v.zeroExtend 16 := by
  revert v; decide +kernel

/-- Settles O49: the pseudo-instructions are defined by the lines they expand to; the words are those of the encoder. -/
theorem pseudoInstructionsExpand : Obligations.PseudoInstructionsExpand := by
  intro a v
  refine ⟨rfl, rfl, dataOps_singleton v, rfl, ?_⟩
  rw [← reqWord_bcdenc]
  rfl

end Sys2Proof.Machine
end

section
/-! PROOF. The BCD codec: `toBcd` and `fromBcd` as arithmetic on the tens and ones of a byte (R80 to R83), the codec requests (R84,
R85) and the range check of SETDT and SETALM (R111, R113). -/

namespace Sys2Proof.Machine

/-! The codec's functions. -/

/-- R80 by number: within the codec's domain the tens fit a nibble, so the shift drops nothing and the OR adds. -/
theorem toBcd_toNat {v : Byte} (hv : v.toNat ≤ 99) : (toBcd v).toNat = v.toNat / 10 * 16 + v.toNat % 10 := by
  have hones : v.toNat % 10 < 2 ^ 4 := by omega
  have hfits : (v.toNat / 10) <<< 4 % 2 ^ 8 = (v.toNat / 10) <<< 4 := by omega
  calc (toBcd v).toNat = (v.toNat / 10) <<< 4 % 2 ^ 8 ||| v.toNat % 10 := by simp [toBcd]
    _ = (v.toNat / 10) <<< 4 + v.toNat % 10 := by rw [hfits, Nat.shiftLeft_add_eq_or_of_lt hones]
    _ = v.toNat / 10 * 16 + v.toNat % 10 := by rw [Nat.shiftLeft_eq]

/-- R81 by number: the value of any byte is at most 165, so nothing wraps. -/
theorem fromBcd_toNat (b : Byte) : (fromBcd b).toNat = b.toNat / 16 * 10 + b.toNat % 16 := by
  have htens : (b.extractLsb' 4 4).toNat = b.toNat / 16 := by
    simp only [BitVec.extractLsb'_toNat, Nat.shiftRight_eq_div_pow]; omega
  have hones : (b.extractLsb' 0 4).toNat = b.toNat % 16 := by simp
  have hb := b.isLt
  simp only [fromBcd, BitVec.truncate_eq_setWidth, BitVec.toNat_add, BitVec.toNat_mul, BitVec.toNat_setWidth, htens, hones,
    BitVec.toNat_ofNat]
  omega

theorem codecOk_iff {v : Byte} : codecOk v = true ↔ v.toNat ≤ 99 := decide_eq_true_iff

theorem codecOk_eq_false {v : Byte} (h : 99 < v.toNat) : codecOk v = false :=
  Bool.eq_false_iff.2 fun hok => absurd (codecOk_iff.1 hok) (Nat.not_le.2 h)

/-- Settles O4: the tens and ones of `v` are the nibbles of `toBcd v`. -/
theorem bcdRoundTrip : Obligations.BcdRoundTrip := by
  intro v hv
  apply BitVec.eq_of_toNat_eq
  rw [fromBcd_toNat, toBcd_toNat hv]
  omega

/-- Re-encoding puts `fromBcd b % 10` into the low nibble; that is `b`'s own low nibble exactly when the latter is at most 9, and the
range 0..99 then bounds the high one (R83). -/
theorem toBcd_fromBcd_iff (b : Byte) :
    ((fromBcd b).toNat ≤ 99 ∧ toBcd (fromBcd b) = b) ↔ (b.toNat / 16 ≤ 9 ∧ b.toNat % 16 ≤ 9) := by
  have hdecode := fromBcd_toNat b
  constructor
  · rintro ⟨hrange, hsame⟩
    have hencode := toBcd_toNat hrange
    rw [hsame, hdecode] at hencode
    omega
  · rintro ⟨htens, hones⟩
    have hrange : (fromBcd b).toNat ≤ 99 := by omega
    refine ⟨hrange, BitVec.eq_of_toNat_eq ?_⟩
    rw [toBcd_toNat hrange, hdecode]
    omega

/-- Settles O5: the equivalence holds by the digits; the count and the examples are computed. -/
theorem bcdConverseNeedsDecimalNibbles : Obligations.BcdConverseNeedsDecimalNibbles :=
  ⟨toBcd_fromBcd_iff, by decide +kernel, rfl, rfl, rfl⟩

/-! The codec requests. -/

/-- A request whose pseudocode ends before any event completes with its result and emits nothing. -/
theorem completes_of_end {i : Instr} {s : State} {start : State → State} {b : List Byte} (h : Ready s)
    (he : exec i s = accept start s) (hb : b.length ≤ 255)
    (hs : start { s with busy := true, osfSeen := false } = endRequest .ok b { s with busy := true, osfSeen := false }) :
    Completes i s .ok b [] 0 false s.cs :=
  (InRequest.start h).completes hb (by rw [he, accept_ready h, hs, run_idle _ (endRequest_seq _ _ _)])

/-- Settles O1: the range check is met and the request ends at once, without the binding being asked for. -/
theorem bcdEncodeGivesPackedBcd : Obligations.BcdEncodeGivesPackedBcd := by
  intro v s hr hv
  rw [← toBcd_toNat hv, BitVec.ofNat_toNat, BitVec.setWidth_eq]
  exact completes_of_end hr rfl (by simp) (by rw [codecOk_iff.2 hv, check_true])

/-- Settles O2: the range check fails. -/
theorem bcdEncodeAbove99Halts : Obligations.BcdEncodeAbove99Halts := by
  intro v s hr hv
  exact halts_of_raise hr (by rw [codecOk_eq_false hv, check_false])

/-- Settles O3: there is nothing to check, and the request ends at once. -/
theorem bcdDecodeGivesTensAndOnes : Obligations.BcdDecodeGivesTensAndOnes := by
  intro b s hr
  rw [← fromBcd_toNat, BitVec.ofNat_toNat, BitVec.setWidth_eq]
  exact completes_of_end hr rfl (by simp) rfl

/-! The fields of SETDT and SETALM. -/

theorem dataOk_eq_false {s : State} {n k : Nat} (hk : k < 255) (hkn : k < n) (h : 99 < s.data[k].toNat) :
    (s.dataBytes n).all codecOk = false :=
  Bool.eq_false_iff.2 fun hall => absurd ((dataOk_iff s n).1 hall k hk hkn) (Nat.not_le.2 h)

theorem alarmOk_eq_false {s : State} {m : BitVec 4} {k : Fin 4} (hm : m.getLsbD k.val = true)
    (h : 99 < s.data[k.val].toNat) : s.alarmOk m = false :=
  Bool.eq_false_iff.2 fun hall => absurd ((alarmOk_iff s m).1 hall k hm) (Nat.not_le.2 h)

/-- Settles O31: the checks before CODEC_RANGE (binding, DSET) are met and the one of the range fails, before any frame (R144). -/
theorem fieldAbove99Halts : Obligations.FieldAbove99Halts := by
  intro s hr hb
  refine ⟨fun hset k hk hk7 hv => ?_, fun m hset k hm hv => ?_⟩
  · exact halts_of_raise hr
      (by rw [hb, check_true, (dataSet_iff s 7).2 hset, check_true, dataOk_eq_false hk hk7 hv, check_false])
  · exact halts_of_raise hr
      (by rw [hb, check_true, (alarmSet_iff s m).2 hset, check_true, alarmOk_eq_false hm hv, check_false])

end Sys2Proof.Machine
end

section
/-! PROOF. INIT, RDREG, WRREG and the wire commands (41_framer.md): a request of one frame, a frame that a wire command runs, and
the bracketing of transfers in a safe trace. -/

namespace Sys2Proof.Machine

/-! The transport's answers and the turn at the start of a frame (R90, R91). -/

/-- Settles O14: an answer is cut or filled to the length of its transfer, so one of that length is unchanged. -/
theorem answersHaveTheTransferLength : Obligations.AnswersHaveTheTransferLength := by
  refine ⟨fun s rx rest h => ?_, answerNo_length⟩
  simp [State.answerNo, h, fitAnswer_exact]

/-- With no host action due, the turn of a busy block is that of its position. -/
theorem turn_of_not_interrupted {s : State} {pos : SeqPos} (hpos : s.seq = some pos) (hi : s.interrupted = false) :
    s.turn = turnAt pos := by
  simp only [State.turn, hpos]
  split
  case h_1 r rest hread => simp only [State.interrupted, hread, reduceCtorEq] at hi
  case h_2 rest hreset => simp only [State.interrupted, hreset, reduceCtorEq] at hi
  case h_3 => rfl

/-- Settles O44: at the start of a frame the turn is the command byte of the buffer. -/
theorem stepRunsTheDecodedCommand : Obligations.StepRunsTheDecodedCommand := by
  intro s c payload p i hpos hi hd
  have hturn : s.turn = .command c := turn_of_not_interrupted hpos hi
  simp only [step, hturn, hd]

/-! INIT (R95). -/

/-- INIT's pseudocode up to its first event (R95). -/
def startInit (xfer cs : Bool) (s : State) : State :=
  if xfer && cs then { s with bound := true, seq := some .initIdle }
  else endRequest .constructionError [] { s with bound := false }

theorem exec_init (xfer cs : Bool) (s : State) : exec (.init xfer cs) s = accept (startInit xfer cs) s := rfl

/-- With both capabilities INIT binds the block, emits `CS(DEASSERT)` and ends. -/
theorem run_startInit_present {s : State} (k : Nat) (hu : s.undisturbed = true) :
    run (k + 1) (startInit true true s) = endRequest .ok [] (emit (.cs .deassert) { s with bound := true }) := by
  have hpos : (startInit true true s).seq = some .initIdle := rfl
  have hu' : (startInit true true s).undisturbed = true := hu
  rw [run_succ k hpos (not_interrupted_of_undisturbed hu'), advance_some hpos, tick_of_undisturbed hu']
  exact run_idle k rfl

theorem startInit_absent {xfer cs : Bool} (h : (xfer && cs) = false) (s : State) :
    startInit xfer cs s = endRequest .constructionError [] { s with bound := false } := by
  rw [startInit, h, if_neg (by decide)]

/-- Settles O6: INIT binds the block and is left with its one event. -/
theorem initBindsAndDeasserts : Obligations.InitBindsAndDeasserts := by
  intro s h
  rw [exec_init, accept_ready h, show maxEvents = 17 + 1 from rfl, run_startInit_present 17 (InRequest.start h).undisturbed]
  exact ⟨_, rfl, ⟨rfl, rfl, rfl, rfl, rfl, rfl, rfl⟩, ⟨rfl, rfl, rfl, rfl, rfl, rfl⟩, rfl, rfl, rfl, rfl, rfl⟩

/-- Settles O7: INIT unbinds the block and ends where it is accepted. -/
theorem initWithoutCapabilityUnbinds : Obligations.InitWithoutCapabilityUnbinds := by
  intro x c s h hxc
  rw [exec_init, accept_ready h, startInit_absent hxc, run_idle _ (endRequest_seq _ _ _)]
  exact ⟨_, rfl, ⟨rfl, rfl, rfl, rfl, rfl, by simp, rfl⟩, ⟨rfl, rfl, rfl, rfl, rfl, rfl⟩, rfl, rfl, rfl, rfl, rfl⟩

/-! Requests of one frame (R96, R97). -/

/-- A request that ends after its first frame, which the transport answers with `Ok(rx)`. -/
theorem completes_of_single_frame {i : Instr} {s : State} {tx rx b : List Byte} {p : Point} (h : Ready s)
    (hbound : s.bound = true) (hf : FirstFrame s i tx) (hp : firstPoint i = some p) (hr : s.answerNo 0 tx.length = .ok rx)
    (hend : ∀ u, resume p rx.tail u = endRequest .ok b u) (hb : b.length ≤ 255) :
    Completes i s .ok b (frameEvents s tx (.ok rx)) 1 false .deasserted := by
  obtain ⟨t, q, he, hq, hpos, hin⟩ := exec_first_frame h hbound hf
  obtain rfl : q = p := Option.some.inj (hq.symm.trans hp)
  have hrun : run maxEvents t = endRequest .ok b (framed tx q (.ok rx) t) := by
    rw [show maxEvents = 15 + 3 from rfl, hin.run_ok 15 hpos hr, hend, run_idle _ (endRequest_seq _ _ _)]
  exact (hin.framed tx q (.ok rx)).completes hb (he.trans (congrArg _ hrun))

/-- Settles O8: RDREG's one frame is the read command and fillers, and what follows the echo is its result. -/
theorem rdregReturnsTheBytesAfterTheEcho : Obligations.RdregReturnsTheBytesAfterTheEcho := by
  intro a n e b s h hbound hn hr
  have hlen : b.length = n.toNat := Nat.succ.inj (answerNo_length s 0 _ _ hr)
  exact completes_of_single_frame h hbound (.rdreg a n hn) rfl (by simpa using hr) (fun _ => rfl)
    (by have := n.isLt; omega)

/-- Settles O9: WRREG's one frame is the write command and DATA, and it ends whatever the answer's bytes are. -/
theorem wrregSendsDataAsGiven : Obligations.WrregSendsDataAsGiven := by
  intro a n rx s h hbound hn hset hr
  have hlen : (s.data.toList.take n.toNat).length = n.toNat := dataBytes_length s n.toNat (by have := n.isLt; omega)
  exact completes_of_single_frame h hbound (.wrreg a n hn hset) rfl (by rw [List.length_cons, hlen, hr]) (fun _ => rfl)
    (Nat.zero_le _)

/-! Wire commands (R92, R93). -/

/-- The frame of a wire command that the transport answers with `Ok(rx)`. -/
theorem runFrame_ok {s : State} {tx rx : List Byte} (p : Point) (hu : s.undisturbed = true)
    (hr : s.answerNo 0 tx.length = .ok rx) : runFrame tx p s = resume p rx.tail (framed tx p (.ok rx) s) :=
  run_frame_ok (s := { s with seq := some (.frame tx .assert p) }) 0 rfl hu hr

/-- Going on with a request leaves CS and the answers still to come. -/
theorem resume_cs_answers (p : Point) (b : List Byte) (s : State) :
    (resume p b s).cs = s.cs ∧ (resume p b s).answers = s.answers := by
  rcases resume_cases p b s with ⟨o, a, n, q, h, -⟩ | ⟨o, a, v, q, h, -⟩ | ⟨l, h⟩
  · rw [h]; exact ⟨rfl, rfl⟩
  · rw [h]; exact ⟨rfl, rfl⟩
  · rw [h]; exact ⟨rfl, rfl⟩

theorem resume_keepsStanding (p : Point) (b : List Byte) (s : State) : KeepsStanding s (resume p b s) := by
  rcases resume_cases p b s with ⟨o, a, n, q, h, -⟩ | ⟨o, a, v, q, h, -⟩ | ⟨l, h⟩
  · rw [h]; exact ⟨rfl, rfl, rfl⟩
  · rw [h]; exact ⟨rfl, rfl, rfl⟩
  · rw [h]; exact ⟨rfl, rfl, rfl⟩

/-- What an answered frame leaves, wherever its request goes on: its three events, one answer taken, CS de-asserted. -/
theorem resume_framed {s : State} (tx : List Byte) (p : Point) (r : Answer) (b : List Byte) :
    (resume p b (framed tx p r s)).trace = s.trace ++ frameEvents s tx r
      ∧ (resume p b (framed tx p r s)).cs = .deasserted
      ∧ (resume p b (framed tx p r s)).answers = s.answers.drop 1
      ∧ KeepsInputs s (resume p b (framed tx p r s)) ∧ KeepsStanding s (resume p b (framed tx p r s)) := by
  have hsilent := silent_resume p b (framed tx p r s)
  have hstanding := resume_keepsStanding p b (framed tx p r s)
  obtain ⟨hcs, hanswers⟩ := resume_cs_answers p b (framed tx p r s)
  refine ⟨hsilent.trace, hcs, hanswers.trans List.drop_one.symm, ?_, ?_⟩
  · exact KeepsInputs.trans (t := framed tx p r s) ⟨rfl, rfl, rfl, rfl, rfl, rfl⟩ hsilent.inputs
  · exact ⟨hstanding.bound, hstanding.halted, hstanding.haltCause⟩

/-- A request that ends with its frame. -/
theorem ended_framed (s : State) (tx : List Byte) (p : Point) (r : Answer) {b : List Byte} (hb : b.length ≤ 255) :
    Ended s (endRequest .ok b (framed tx p r s)) .ok b (frameEvents s tx r) 1 :=
  ⟨rfl, rfl, rfl, by simp; omega, setResult_take b _ hb, rfl, List.drop_one.symm⟩

/-- Settles O11: CMD_READ rebuilds the pending buffer as a read frame at its own address, and RDREG ends with what follows the
echo. -/
theorem cmdReadRunsThePendingFrame : Obligations.CmdReadRunsThePendingFrame := by
  intro a c e payload b p s hu hpos hlen hr
  have hb : b.length = payload.length := Nat.succ.inj (answerNo_length s 0 _ _ hr)
  have hexec : exec (.cmdRead a) s = .next (runFrame (readBuffer a payload.length) p s) := by
    simp only [exec, execCmdRead, hpos]
  have hbuffer : readBuffer a payload.length = (0x90#8 ||| a.zeroExtend 8) :: List.replicate payload.length 0#8 := by
    rw [readBuffer, cmdByte_read]; rfl
  rw [hbuffer, runFrame_ok p hu (by simpa using hr)] at hexec
  obtain ⟨htrace, hcs, hanswers, hinputs, hstanding⟩ := resume_framed _ p (.ok (e :: b)) b
  refine ⟨_, hexec, htrace, hcs, hanswers, hinputs, hstanding, ?_⟩
  rintro rfl
  exact ended_framed s _ _ _ (b := b) (by omega)

/-- Settles O12: CMD_WRITE sends the pending payload in a write frame at its own address, and WRREG ends with no result. -/
theorem cmdWriteRunsThePendingFrame : Obligations.CmdWriteRunsThePendingFrame := by
  intro a c payload rx p s hu hpos hr
  have hexec : exec (.cmdWrite a) s = .next (runFrame (writeBuffer a payload) p s) := by
    simp only [exec, execCmdWrite, hpos]
  rw [writeBuffer, cmdByte_write, runFrame_ok p hu (rx := rx) (by simpa using hr)] at hexec
  obtain ⟨htrace, hcs, hanswers, hinputs, hstanding⟩ := resume_framed _ p (.ok rx) rx.tail
  refine ⟨_, hexec, htrace, hcs, hanswers, hinputs, hstanding, ?_⟩
  rintro rfl
  exact ended_framed s _ _ _ (Nat.zero_le _)

/-! The bracketing of transfers (R51, R90, R98). -/

/-- A trace that ends in an opened frame ends with the `CS(ASSERT)` that opened it. -/
theorem exists_assert_of_scan_opened {pre : List Event} (h : scan pre = some .opened) : ∃ pre', pre = pre' ++ [.cs .assert] := by
  rcases List.eq_nil_or_concat' pre with rfl | ⟨pre', e, rfl⟩
  · cases h
  · rw [scan_append] at h
    obtain ⟨l, -, hnext⟩ := Option.bind_eq_some_iff.1 h
    exact ⟨pre', by rw [Line.next_opened hnext]⟩

/-- Settles O52: the scan of a safe trace admits a transfer only in an opened frame, and then `CS(DEASSERT)` or the end of the
trace, where CS is asserted. -/
theorem transfersAreBracketed : Obligations.TransfersAreBracketed := by
  intro s pre post tx n p r h htrace
  obtain ⟨m, hpre, hscan⟩ := scan_prefix (htrace ▸ h.trace_ok)
  rw [List.foldlM_cons] at hscan
  obtain ⟨m', hnext, hpost⟩ := Option.bind_eq_some_iff.1 hscan
  obtain ⟨rfl, rfl, -⟩ := Line.next_xfer hnext
  refine ⟨exists_assert_of_scan_opened hpre, ?_⟩
  cases post with
  | nil =>
    have hline : .transferred = lineAt s.seq := Option.some.inj hpost
    exact .inl ⟨rfl, h.cs_line.2 (hline ▸ nofun)⟩
  | cons e post' =>
    rw [List.foldlM_cons] at hpost
    obtain ⟨l, hnext', -⟩ := Option.bind_eq_some_iff.1 hpost
    obtain ⟨rfl, -⟩ := Line.next_of_transferred hnext'
    exact .inr ⟨post', rfl⟩

end Sys2Proof.Machine
end

section
/-! PROOF. A timed-out transfer is the last of its request (R94, R142): what the events of a request in progress say of its
position, block step by block step. -/

namespace Sys2Proof.Machine

/-- Is the event a transfer that timed out (R91)? -/
def Event.timedOut : Event → Bool
  | .cs _ => false
  | .hook _ => false
  | .xfer _ _ _ (.ok _) => false
  | .xfer _ _ _ .timeout => true

/-- Where a request that began with the trace `tr` stands in `t`: no transfer of it has timed out; or its last event is the first
that did, and its frame is about to end; or it has ended with TIMEOUT and `CS(DEASSERT)` after that transfer. -/
inductive TimeoutLast (tr : List Event) (t : State) : Prop where
  | clean (evs : List Event) (htrace : t.trace = tr ++ evs) (hno : ∀ x ∈ evs, x.timedOut = false)
      (hpos : ∀ tx p, t.seq ≠ some (.frame tx (.deassert .timeout) p)) (hcode : t.seq = none → t.code ≠ .timeout)
  | awaited (evs : List Event) (tx : List Byte) (n τ : Nat) (htrace : t.trace = tr ++ (evs ++ [.xfer tx n τ .timeout]))
      (hno : ∀ x ∈ evs, x.timedOut = false) (tx' : List Byte) (p : Point)
      (hpos : t.seq = some (.frame tx' (.deassert .timeout) p))
  | raised (evs : List Event) (tx : List Byte) (n τ : Nat)
      (htrace : t.trace = tr ++ (evs ++ [.xfer tx n τ .timeout, .cs .deassert])) (hno : ∀ x ∈ evs, x.timedOut = false)
      (hpos : t.seq = none) (hcode : t.code = .timeout)

/-- A block step whose event did not time out, to a position that is not the end of a timed-out frame. -/
theorem TimeoutLast.clean_step {tr : List Event} {t u : State} {evs : List Event} {e : Event} (htrace : t.trace = tr ++ evs)
    (hno : ∀ x ∈ evs, x.timedOut = false) (hu : u.trace = t.trace ++ [e]) (he : e.timedOut = false)
    (hpos : ∀ tx p, u.seq ≠ some (.frame tx (.deassert .timeout) p)) (hcode : u.seq = none → u.code ≠ .timeout) :
    TimeoutLast tr u := by
  refine .clean (evs ++ [e]) (by rw [hu, htrace, List.append_assoc]) (fun x hx => ?_) hpos hcode
  rcases List.mem_append.1 hx with h | h
  · exact hno x h
  · rw [List.mem_singleton.1 h, he]

/-- Going on with a request does not lead to the end of a frame, and ends the request with outcome OK only. -/
theorem resume_seq_code (p : Point) (b : List Byte) (s : State) :
    (∀ tx r q, (resume p b s).seq ≠ some (.frame tx (.deassert r) q))
      ∧ ((resume p b s).seq = none → (resume p b s).code = .ok) := by
  rcases resume_cases p b s with ⟨o, a, n, q, h, -⟩ | ⟨o, a, v, q, h, -⟩ | ⟨l, h⟩
  · rw [h]; exact ⟨nofun, nofun⟩
  · rw [h]; exact ⟨nofun, nofun⟩
  · rw [h]; exact ⟨nofun, fun _ => rfl⟩

theorem TimeoutLast.advance {tr : List Event} {t : State} {pos : SeqPos} (hpos : t.seq = some pos) (h : TimeoutLast tr t) :
    TimeoutLast tr (advance t) := by
  rw [advance_some hpos]
  cases h with
  | raised evs tx n τ htrace hno hidle hcode => simp [hidle] at hpos
  | awaited evs tx n τ htrace hno tx' p hend =>
    obtain rfl := Option.some.inj (hpos.symm.trans hend)
    exact .raised evs tx n τ (by simp [advanceAt, returnFrame, htrace]) hno rfl rfl
  | clean evs htrace hno hnot hcode =>
    cases pos with
    | hook c => exact .clean_step htrace hno rfl rfl nofun nofun
    | initIdle => exact .clean_step htrace hno rfl rfl nofun nofun
    | frame tx ph p =>
      cases ph with
      | assert => exact .clean_step htrace hno rfl rfl nofun nofun
      | xfer =>
        have hseq : (advanceAt (.frame tx .xfer p) { t with hostIn := tick t.hostIn }).seq
            = some (.frame tx (.deassert (t.answerNo 0 tx.length)) p) := rfl
        have htrace' : (advanceAt (.frame tx .xfer p) { t with hostIn := tick t.hostIn }).trace
            = t.trace ++ [.xfer tx tx.length t.cfg.xferTimeout (t.answerNo 0 tx.length)] := rfl
        cases hr : t.answerNo 0 tx.length with
        | ok rx =>
          rw [hr] at hseq htrace'
          exact .clean_step htrace hno htrace' rfl (by simp [hseq]) (by simp [hseq])
        | timeout =>
          rw [hr] at hseq htrace'
          exact .awaited evs tx _ _ (by rw [htrace', htrace, List.append_assoc]) hno tx p hseq
      | deassert r =>
        cases r with
        | timeout => exact absurd hpos (hnot tx p)
        | ok rx =>
          have hsilent := silent_resume p rx.tail (emit (.cs .deassert) { t with hostIn := tick t.hostIn })
          obtain ⟨hseq, hend⟩ := resume_seq_code p rx.tail (emit (.cs .deassert) { t with hostIn := tick t.hostIn })
          exact .clean_step htrace hno hsilent.trace rfl (fun tx' q => hseq tx' .timeout q)
            fun hnone hc => nomatch (hend hnone).symm.trans hc

theorem TimeoutLast.run {tr : List Event} {t : State} (h : TimeoutLast tr t) (k : Nat) : TimeoutLast tr (run k t) :=
  run_induction (fun _ _ hpos ht => ht.advance hpos) k t h

/-- The pseudocode of a request up to its first event ends it, if at all, with another outcome than TIMEOUT. -/
theorem Started.timeoutLast {s u : State} (h : Started s u) : TimeoutLast s.trace u := by
  refine .clean [] (by rw [(silent_of_started h).trace, List.append_nil]) nofun ?_ ?_
  · cases h <;> exact nofun
  · cases h <;> exact nofun

/-- An undisturbed run of a request ends (R28). -/
theorem run_maxEvents_seq {s : State} (hu : s.undisturbed = true) : (run maxEvents s).seq = none := by
  have hu' : (run maxEvents s).undisturbed = true := by rw [undisturbed_congr (run_keepsInputs _ hu).hostIn, hu]
  exact (run_maxEvents_ends s).resolve_right (by simp [not_interrupted_of_undisturbed hu'])

/-- A request of a block that can accept it starts, runs and ends (R28). -/
theorem exec_request_ready {i : Instr} {s : State} (hi : i.isRequest = true) (h : Ready s) :
    ∃ u, Started { s with busy := true, osfSeen := false } u ∧ exec i s = .next (run maxEvents u)
      ∧ (run maxEvents u).seq = none := by
  obtain ⟨start, he, hs⟩ := exec_request hi s
  have hu := (undisturbed_congr (silent_of_started hs).inputs.hostIn).trans h.undisturbed
  exact ⟨_, hs, he.trans (accept_ready h), run_maxEvents_seq hu⟩

/-- After the first timed-out transfer only `CS(DEASSERT)` follows, if the events end with the two. -/
theorem eq_deassert_of_timedOut {evs pre post : List Event} {x y : Event} (hno : ∀ e ∈ evs, e.timedOut = false)
    (hy : y.timedOut = true) (h : evs ++ [x, .cs .deassert] = pre ++ y :: post) : post = [.cs .deassert] := by
  rcases List.append_eq_append_iff.1 h with ⟨mid, -, hmid⟩ | ⟨mid, rfl, hmid⟩
  · rcases mid with - | ⟨z, - | ⟨z', mid⟩⟩
    · cases hmid; rfl
    · cases hmid; cases hy
    · simp at hmid
  · rcases mid with - | ⟨z, mid⟩
    · cases hmid; rfl
    · cases hmid
      simp [hno y (by simp)] at hy

/-- Settles O28: a request ends either with no timed-out transfer and another outcome, or with its only timed-out transfer and the
`CS(DEASSERT)` of that frame. -/
theorem timeoutIsNeverRetried : Obligations.TimeoutIsNeverRetried := by
  intro i s hi hr
  obtain ⟨u, hu, hexec, hidle⟩ := exec_request_ready hi hr
  cases hu.timeoutLast.run maxEvents with
  | clean evs htrace hno _ hcode =>
    refine ⟨_, evs, hexec, htrace, iff_of_false (hcode hidle) ?_, ?_⟩
    · rintro ⟨pre, tx, n, p, rfl⟩
      cases hno (.xfer tx n p .timeout) (by simp)
    · rintro pre post tx n p rfl
      cases hno (.xfer tx n p .timeout) (by simp)
  | awaited _ _ _ _ _ _ _ _ hpos => simp [hidle] at hpos
  | raised evs tx n τ htrace hno _ hcode =>
    exact ⟨_, _, hexec, htrace, iff_of_true hcode ⟨evs, tx, n, τ, rfl⟩,
      fun _ _ _ _ _ h => eq_deassert_of_timedOut hno rfl h⟩

end Sys2Proof.Machine
end

section
/-! PROOF. The echoed byte is never used (R44, R91): two runs of a request whose answers agree but for the echoed bytes go through
the same states, but for the trace, the answers to come and the answer a frame in progress holds. -/

namespace Sys2Proof.Machine

/-- The state `t` with another trace, other answers to come and another position. -/
def State.relog (t : State) (tr : List Event) (as : List Answer) (q : Option SeqPos) : State :=
  { t with trace := tr, answers := as, seq := q }

/-! Pseudocode between two events. -/

/-- A piece of pseudocode that chooses the next position without looking at the trace, the answers to come or the position before,
and that takes no draw unless it ends the request. -/
structure Blind (f : State → State) : Prop where
  relog : ∀ t tr as q, f (t.relog tr as q) = (f t).relog tr as (f t).seq
  draws : ∀ t, (f t).seq ≠ none → (f t).draws = t.draws

/-- A blind piece of pseudocode leaves the trace and the answers to come. -/
theorem Blind.trace_answers {f : State → State} (h : Blind f) (t : State) :
    (f t).trace = t.trace ∧ (f t).answers = t.answers := by
  have hrelog : f t = (f t).relog t.trace t.answers (f t).seq := h.relog t t.trace t.answers t.seq
  exact ⟨(congrArg State.trace hrelog).trans rfl, (congrArg State.answers hrelog).trans rfl⟩

theorem Blind.endRequest (c : Code) (b : List Byte) : Blind (endRequest c b) :=
  ⟨fun _ _ _ _ => rfl, fun _ h => absurd rfl h⟩

theorem Blind.raiseViolation (c : Cause) : Blind (raiseViolation c) := ⟨fun _ _ _ _ => rfl, fun _ _ => rfl⟩

theorem Blind.startRead (a : RegAddr) (n : Nat) (p : Point) : Blind (startRead a n p) :=
  ⟨fun _ _ _ _ => rfl, fun _ _ => rfl⟩

theorem Blind.startWrite (a : RegAddr) (v : List Byte) (p : Point) : Blind (startWrite a v p) :=
  ⟨fun _ _ _ _ => rfl, fun _ _ => rfl⟩

theorem Blind.check {go : State → State} (holds : Bool) (c : Cause) (h : Blind go) : Blind (check holds c go) := by
  cases holds with
  | true => exact h
  | false => exact .raiseViolation c

theorem Blind.startInit (xfer cs : Bool) : Blind (startInit xfer cs) := by
  unfold Machine.startInit
  cases xfer && cs with
  | true => exact ⟨fun _ _ _ _ => rfl, fun _ _ => rfl⟩
  | false => exact ⟨fun _ _ _ _ => rfl, fun _ h => absurd rfl h⟩

theorem afterGetdtSeconds_seen {b : List Byte} {s : State} (h : (firstByte b &&& s.cfg.osfMask != 0) = true) :
    afterGetdtSeconds b s =
      startWrite PReg.seconds.addr [firstByte b &&& ~~~s.cfg.osfMask] .getdtAck { s with osfSeen := true } :=
  if_pos h

theorem afterGetdtSeconds_clear {b : List Byte} {s : State} (h : (firstByte b &&& s.cfg.osfMask != 0) = false) :
    afterGetdtSeconds b s = readDatetime s :=
  if_neg (by rw [h]; decide)

theorem resume_relog (p : Point) (b : List Byte) (t : State) (tr : List Event) (as : List Answer) (q : Option SeqPos) :
    resume p b (t.relog tr as q) = (resume p b t).relog tr as (resume p b t).seq := by
  cases p
  case getdtSeconds =>
    simp only [resume]
    cases hosf : firstByte b &&& t.cfg.osfMask != 0 with
    | true => rw [afterGetdtSeconds_seen hosf, afterGetdtSeconds_seen (s := t.relog tr as q) hosf]; rfl
    | false => rw [afterGetdtSeconds_clear hosf, afterGetdtSeconds_clear (s := t.relog tr as q) hosf]; rfl
  case setalmField m k =>
    simp only [resume, afterSetalmField]
    split
    · rfl
    · rfl
  all_goals rfl

theorem Blind.resume (p : Point) (b : List Byte) : Blind (resume p b) := by
  refine ⟨resume_relog p b, fun t hseq => ?_⟩
  rcases resume_cases p b t with ⟨o, a, n, q, h, -⟩ | ⟨o, a, v, q, h, -⟩ | ⟨l, h⟩
  · rw [h]; rfl
  · rw [h]; rfl
  · exact absurd (by rw [h]; rfl) hseq

theorem Blind.returnFrame (p : Point) (r : Answer) : Blind (returnFrame p r) := by
  cases r with
  | ok rx => exact .resume p rx.tail
  | timeout => exact .endRequest .timeout []

/-- The pseudocode of a request up to its first event does not look at the answers to come. -/
theorem exec_blind {i : Instr} (hi : i.isRequest = true) (s : State) :
    ∃ start, Blind start ∧ exec i s = accept start s
      ∧ ∀ as, exec i { s with answers := as } = accept start { s with answers := as } := by
  cases i with
  | init x c => exact ⟨_, .startInit x c, rfl, fun _ => rfl⟩
  | rdreg a n => exact ⟨_, .check _ _ (.check _ _ (.startRead _ _ _)), rfl, fun _ => rfl⟩
  | wrreg a n => exact ⟨_, .check _ _ (.check _ _ (.check _ _ (.startWrite _ _ _))), rfl, fun _ => rfl⟩
  | swrst => exact ⟨_, .check _ _ (.startWrite _ _ _), rfl, fun _ => rfl⟩
  | setdt => exact ⟨_, .check _ _ (.check _ _ (.check _ _ (.startWrite _ _ _))), rfl, fun _ => rfl⟩
  | getdt => exact ⟨_, .check _ _ (.startRead _ _ _), rfl, fun _ => rfl⟩
  | setalm m => exact ⟨_, .check _ _ (.check _ _ (.check _ _ (.startRead _ _ _))), rfl, fun _ => rfl⟩
  | getirq => exact ⟨_, .check _ _ (.startRead _ _ _), rfl, fun _ => rfl⟩
  | clraf => exact ⟨_, .check _ _ (.startRead _ _ _), rfl, fun _ => rfl⟩
  | clrtf => exact ⟨_, .check _ _ (.startRead _ _ _), rfl, fun _ => rfl⟩
  | clrall => exact ⟨_, .check _ _ (.startRead _ _ _), rfl, fun _ => rfl⟩
  | bcdenc v => exact ⟨_, .check _ _ (.endRequest _ _), rfl, fun _ => rfl⟩
  | bcddec b => exact ⟨_, .endRequest _ _, rfl, fun _ => rfl⟩
  | cmdRead a => cases hi
  | cmdWrite a => cases hi

/-! Two runs side by side. -/

/-- The answers to come agree but for the echoed bytes (R44). -/
def SameAnswers (t u : State) : Prop := ∀ k n, SameButEcho (t.answerNo k n) (u.answerNo k n)

/-- The two traces ask the peripheral for the same register writes (R42). -/
def SameWrites (tr tr' : List Event) : Prop := tr.flatMap Event.registerWrites = tr'.flatMap Event.registerWrites

theorem SameWrites.append {tr tr' : List Event} {e e' : Event} (h : SameWrites tr tr')
    (he : e.registerWrites = e'.registerWrites) : SameWrites (tr ++ [e]) (tr' ++ [e']) := by
  simp only [SameWrites, List.flatMap_append, List.flatMap_cons, List.flatMap_nil, he]
  rw [h]

/-- A transfer asks for the writes its buffer tells, whatever the answer. -/
theorem registerWrites_xfer (tx : List Byte) (n t : Nat) (r r' : Answer) :
    Event.registerWrites (.xfer tx n t r) = Event.registerWrites (.xfer tx n t r') := by
  cases tx <;> rfl

/-- Two positions that differ in the echo of the answer that the frame in progress holds at most. -/
inductive SamePos : Option SeqPos → Option SeqPos → Prop where
  | same (q : Option SeqPos) : SamePos q q
  | deassert (tx : List Byte) (p : Point) (r r' : Answer) (h : SameButEcho r r') :
      SamePos (some (.frame tx (.deassert r) p)) (some (.frame tx (.deassert r') p))

/-- The state of the one run is that of the other, but for the trace, the answers to come and the position; and these agree but
for the echoed bytes. -/
inductive SameRun (t : State) : State → Prop where
  | mk (tr : List Event) (as : List Answer) (q : Option SeqPos) (pos : SamePos t.seq q)
      (answers : t.seq ≠ none → SameAnswers t (t.relog tr as q)) (writes : SameWrites t.trace tr) :
      SameRun t (t.relog tr as q)

/-- A blind piece of pseudocode goes the same way in both runs, whatever the positions before. -/
theorem Blind.sameRun {f : State → State} (hf : Blind f) {t : State} {tr : List Event} {as : List Answer}
    (q : Option SeqPos) (ha : SameAnswers t (t.relog tr as q)) (hw : SameWrites t.trace tr) :
    SameRun (f t) (f (t.relog tr as q)) := by
  obtain ⟨htrace, hanswers⟩ := hf.trace_answers t
  rw [hf.relog]
  refine .mk _ _ _ (.same _) (fun hseq k n => ?_) (by rw [htrace]; exact hw)
  have hdraws := hf.draws t hseq
  rw [answerNo_later t (f t) 0 k n hanswers hdraws,
    answerNo_later (t.relog tr as q) ((f t).relog tr as (f t).seq) 0 k n rfl hdraws]
  exact ha (0 + k) n

/-! A block step of both runs. -/

/-- The answer's echo is dropped when a frame returns (R44). -/
theorem returnFrame_congr {r r' : Answer} (h : SameButEcho r r') (p : Point) : returnFrame p r = returnFrame p r' := by
  cases r with
  | ok rx =>
    cases r' with
    | ok rx' => exact congrArg (resume p) h
    | timeout => cases h
  | timeout =>
    cases r' with
    | ok rx' => cases h
    | timeout => rfl

/-- From two such positions the block does the same. -/
theorem SamePos.advanceAt_eq {pos : SeqPos} {q : Option SeqPos} (h : SamePos (some pos) q) :
    ∃ pos', q = some pos' ∧ advanceAt pos' = advanceAt pos := by
  cases h with
  | same => exact ⟨pos, rfl, rfl⟩
  | deassert tx p r r' h => exact ⟨_, rfl, by funext s; simp only [advanceAt, returnFrame_congr h]⟩

/-- But for a transfer, a block step is one event and a blind piece of pseudocode. -/
theorem advanceAt_blind (pos : SeqPos) :
    (∃ tx p, pos = .frame tx .xfer p) ∨ ∃ e f, Blind f ∧ ∀ s, advanceAt pos s = f (emit e s) := by
  cases pos with
  | hook c =>
    exact .inr ⟨.hook c, fun s => endRequest .contractViolation [] { s with haltCause := c, halted := true },
      ⟨fun _ _ _ _ => rfl, fun _ h => absurd rfl h⟩, fun _ => rfl⟩
  | initIdle => exact .inr ⟨.cs .deassert, _, .endRequest .ok [], fun _ => rfl⟩
  | frame tx ph p =>
    cases ph with
    | assert =>
      exact .inr ⟨.cs .assert, fun s => { s with seq := some (.frame tx .xfer p) },
        ⟨fun _ _ _ _ => rfl, fun _ _ => rfl⟩, fun _ => rfl⟩
    | xfer => exact .inl ⟨tx, p, rfl⟩
    | deassert r => exact .inr ⟨.cs .deassert, _, .returnFrame p r, fun _ => rfl⟩

/-- A transfer takes two answers that agree but for the echo. -/
theorem SameRun.transfer {t : State} {tr : List Event} {as : List Answer} (tx : List Byte) (p : Point) (q : Option SeqPos)
    (ha : SameAnswers t (t.relog tr as q)) (hw : SameWrites t.trace tr) :
    SameRun (advanceAt (.frame tx .xfer p) t) (advanceAt (.frame tx .xfer p) (t.relog tr as q)) := by
  refine .mk (tr ++ [xferEvent tx (t.relog tr as q)]) as.tail
    (some (.frame tx (.deassert ((t.relog tr as q).answerNo 0 tx.length)) p)) (.deassert tx p _ _ (ha 0 tx.length))
    (fun _ k n => ?_) (hw.append (registerWrites_xfer tx _ _ _ _))
  have hlater : ∀ u : State, (advanceAt (.frame tx .xfer p) u).answerNo k n = u.answerNo (1 + k) n := fun u =>
    answerNo_later u _ 1 k n List.drop_one.symm rfl
  have hsame := ha (1 + k) n
  rwa [← hlater, ← hlater] at hsame

theorem SameRun.advance {t u : State} {pos : SeqPos} (hpos : t.seq = some pos) (h : SameRun t u) :
    SameRun (advance t) (advance u) := by
  cases h with
  | mk tr as q hq ha hw =>
    have hsame : SameAnswers { t with hostIn := tick t.hostIn } (({ t with hostIn := tick t.hostIn } : State).relog tr as q) :=
      ha (by simp [hpos])
    obtain ⟨pos', rfl, heq⟩ := (hpos ▸ hq).advanceAt_eq
    rw [advance_some hpos, advance_some (s := t.relog tr as (some pos')) rfl, heq]
    rcases advanceAt_blind pos with ⟨tx, p, rfl⟩ | ⟨e, f, hf, hadvance⟩
    · exact .transfer tx p _ hsame hw
    · rw [hadvance, hadvance]
      exact hf.sameRun (t := emit e { t with hostIn := tick t.hostIn }) (tr := tr ++ [e]) _ hsame (hw.append rfl)

theorem SamePos.none_iff {q q' : Option SeqPos} (h : SamePos q q') : q = none ↔ q' = none := by
  cases h with
  | same => exact Iff.rfl
  | deassert => exact iff_of_false nofun nofun

theorem SameRun.run : ∀ (k : Nat) {t u : State}, SameRun t u → SameRun (run k t) (run k u)
  | 0, _, _, h => h
  | k + 1, t, u, h => by
    obtain ⟨hnone, hdue⟩ : (t.seq = none ↔ u.seq = none) ∧ u.interrupted = t.interrupted := by
      cases h with
      | mk tr as q hq => exact ⟨hq.none_iff, rfl⟩
    cases hpos : t.seq with
    | none => rwa [run_idle _ hpos, run_idle _ (hnone.1 hpos)]
    | some pos =>
      obtain ⟨pos', hpos'⟩ := Option.ne_none_iff_exists'.1 (mt hnone.2 (by simp [hpos]))
      cases hi : t.interrupted with
      | true => rwa [run_interrupted _ hi, run_interrupted _ (hdue.trans hi)]
      | false =>
        rw [run_succ k hpos hi, run_succ k hpos' (hdue.trans hi)]
        exact .run k (h.advance hpos)

/-- What a host sees of the ends of two such runs, and what the peripheral sees of both (R42, R44). -/
theorem SameRun.outcome {t u : State} (h : SameRun t u) (hidle : t.seq = none) :
    t.resLen = u.resLen ∧ t.res.toList.take t.resLen.toNat = u.res.toList.take u.resLen.toNat
      ∧ t.statusByte = u.statusByte ∧ t.haltCause = u.haltCause ∧ t.cs = u.cs ∧ t.seq = u.seq
      ∧ SameWrites t.trace u.trace := by
  cases h with
  | mk tr as q hq _ hw => exact ⟨rfl, rfl, rfl, rfl, rfl, hidle.trans (hq.none_iff.1 hidle).symm, hw⟩

/-- Settles O60: both runs start with the same pseudocode and stay side by side to the end, where neither holds an answer. -/
theorem echoedByteIsNeverUsed : Obligations.EchoedByteIsNeverUsed := by
  intro i s as bs hi hsame hr
  obtain ⟨start, hblind, -, hexec⟩ := exec_blind hi s
  have hready : ∀ l, Ready { s with answers := l } := fun _ => ⟨hr.not_halted, hr.not_busy, hr.undisturbed⟩
  have ht := (hexec as).trans (accept_ready (hready as))
  have hu := (hexec bs).trans (accept_ready (hready bs))
  have hstart := hblind.sameRun (t := { s with answers := as, busy := true, osfSeen := false }) (tr := s.trace) (as := bs) s.seq
    hsame rfl
  obtain ⟨_, -, hend, hidle⟩ := exec_request_ready hi (hready as)
  have heq := Host.Outcome.next.inj (ht.symm.trans hend)
  exact ⟨_, _, ht, hu, (hstart.run maxEvents).outcome (heq ▸ hidle)⟩

end Sys2Proof.Machine
end

section
/-! PROOF. The derived requests (42_rtc_ops.md): a request of several frames is followed from frame to frame to its end. -/

namespace Sys2Proof.Machine

/-! A request followed frame by frame (R90). -/

/-- The instruction `i`, accepted in `s`, is about to send `tx`, to go on at `p`, with `k` block steps to go; it has emitted `evs`
and taken `n` answers, and OSF_SEEN is `osf`. -/
def Sending (i : Instr) (s : State) (k : Nat) (evs : List Event) (n : Nat) (osf : Bool) (tx : List Byte) (p : Point) : Prop :=
  ∃ t cs, exec i s = .next (run k t) ∧ InRequest s evs n osf cs t ∧ t.seq = some (.frame tx .assert p)

/-- Going on at `p` with the bytes `b`, a request accepted in `s` sends `tx` next, to go on at `q`; OSF_SEEN goes from `osf` to
`osf'`. -/
def LeadsTo (s : State) (p : Point) (b : List Byte) (osf : Bool) (tx : List Byte) (q : Point) (osf' : Bool) : Prop :=
  ∀ (evs : List Event) (n : Nat) (cs : CsLevel) (t : State), InRequest s evs n osf cs t →
    InRequest s evs n osf' cs (resume p b t) ∧ (resume p b t).seq = some (.frame tx .assert q)

section FrameByFrame

variable {i : Instr} {s : State} {k n : Nat} {evs : List Event} {osf osf' : Bool} {tx tx' rx b v : List Byte} {p q : Point}
  {a : RegAddr}

theorem LeadsTo.read {m : Nat} (h : ∀ t, KeepsInputs s t → resume p b t = startRead a m q t) :
    LeadsTo s p b osf (readBuffer a m) q osf := by
  intro evs n cs t ht
  rw [h t ht.inputs]
  exact ⟨ht.startRead a m q, rfl⟩

theorem LeadsTo.write (h : ∀ t, KeepsInputs s t → resume p b t = startWrite a v q t) :
    LeadsTo s p b osf (writeBuffer a v) q osf := by
  intro evs n cs t ht
  rw [h t ht.inputs]
  exact ⟨ht.startWrite a v q, rfl⟩

/-- A request whose checks are met starts with its first frame. -/
theorem Sending.first (h : Ready s) (hbound : s.bound = true) (hf : FirstFrame s i tx) (hp : firstPoint i = some p) :
    Sending i s maxEvents [] 0 false tx p := by
  obtain ⟨t, p', hexec, hp', hpos, hin⟩ := exec_first_frame h hbound hf
  obtain rfl : p' = p := Option.some.inj (hp'.symm.trans hp)
  exact ⟨t, s.cs, hexec, hin, hpos⟩

/-- A frame answered `Ok(rx)`, after which another follows. -/
theorem Sending.next (h : Sending i s (k + 3) evs n osf tx p) (hr : s.answerNo n tx.length = .ok rx)
    (hnext : LeadsTo s p rx.tail osf tx' q osf') :
    Sending i s k (evs ++ frameEvents s tx (.ok rx)) (n + 1) osf' tx' q := by
  obtain ⟨t, cs, hexec, hin, hpos⟩ := h
  obtain ⟨hin', hpos'⟩ := hnext _ _ _ _ (hin.framed tx p (.ok rx))
  exact ⟨_, _, hexec.trans (congrArg _ (hin.run_ok k hpos hr)), hin', hpos'⟩

/-- A frame answered `Ok(rx)`, after which the request ends. -/
theorem Sending.completes (h : Sending i s (k + 3) evs n osf tx p) (hr : s.answerNo n tx.length = .ok rx)
    (hend : ∀ t, KeepsInputs s t → resume p rx.tail t = endRequest .ok b t) (hb : b.length ≤ 255) :
    Completes i s .ok b (evs ++ frameEvents s tx (.ok rx)) (n + 1) osf .deasserted := by
  obtain ⟨t, cs, hexec, hin, hpos⟩ := h
  have hframed := hin.framed tx p (.ok rx)
  have hrun : run (k + 3) t = endRequest .ok b (framed tx p (.ok rx) t) := by
    rw [hin.run_ok k hpos hr, hend _ hframed.inputs, run_idle _ (endRequest_seq _ _ _)]
  exact hframed.completes hb (hexec.trans (congrArg _ hrun))

/-- A frame that times out ends the request, wherever it stands (R142). -/
theorem Sending.completes_timeout (h : Sending i s (k + 3) evs n osf tx p) (hr : s.answerNo n tx.length = .timeout) :
    Completes i s .timeout [] (evs ++ frameEvents s tx .timeout) (n + 1) osf .deasserted := by
  obtain ⟨t, cs, hexec, hin, hpos⟩ := h
  exact (hin.framed tx p .timeout).completes (Nat.zero_le _) (hexec.trans (congrArg _ (hin.run_timeout k hpos hr)))

end FrameByFrame

/-! Requests of one frame (R110, R111, R114). -/

/-- Settles O15: SWRST's one frame carries the parameter, and it ends whatever the answer's bytes are. -/
theorem swrstWritesTheMagicByte : Obligations.SwrstWritesTheMagicByte := by
  intro rx s h hbound hr
  exact completes_of_single_frame h hbound .swrst rfl hr (fun _ => rfl) (Nat.zero_le _)

/-- Settles O16: the two checks of DATA are met, and SETDT's one frame carries the seven encoded bytes. -/
theorem setdtWritesSevenEncodedFields : Obligations.SetdtWritesSevenEncodedFields := by
  intro rx s h hbound hset hrange hr
  have hlen : (0x12#8 :: (s.data.toList.take 7).map toBcd).length = 8 := by simp
  exact completes_of_single_frame h hbound (.setdt hset hrange) rfl (by rw [hlen, hr]) (fun _ => rfl) (Nat.zero_le _)

/-- Settles O21: GETIRQ's one frame reads control_2, and the byte after the echo is its result. -/
theorem getirqReturnsRawControl2 : Obligations.GetirqReturnsRawControl2 := by
  intro e r s h hbound hr
  exact completes_of_single_frame h hbound .getirq rfl hr (fun _ => rfl) (by simp)

/-! GETDT (R112). -/

theorem leadsTo_readDatetime_of_clear {s : State} {sec : Byte} (osf : Bool) (h : sec &&& s.cfg.osfMask = 0) :
    LeadsTo s .getdtSeconds [sec] osf (0x92#8 :: List.replicate 7 0#8) .getdtData osf := by
  refine .read (a := PReg.seconds.addr) (m := 7) fun t ht => ?_
  rw [← ht.cfg] at h
  exact afterGetdtSeconds_clear (bne_eq_false_iff_eq.2 h)

/-- The flag seen: OSF_SEEN is set before the corrective write starts, so a timeout of it keeps OSF_SEEN. -/
theorem leadsTo_acknowledge_of_seen {s : State} {sec : Byte} (osf : Bool) (h : sec &&& s.cfg.osfMask ≠ 0) :
    LeadsTo s .getdtSeconds [sec] osf [0x12#8, sec &&& ~~~s.cfg.osfMask] .getdtAck true := by
  intro evs n cs t ht
  have hresume : resume .getdtSeconds [sec] t
      = startWrite PReg.seconds.addr [sec &&& ~~~s.cfg.osfMask] .getdtAck { t with osfSeen := true } := by
    rw [← ht.inputs.cfg] at h ⊢
    exact afterGetdtSeconds_seen (bne_iff_ne.2 h)
  rw [hresume]
  exact ⟨ht.seeOsf.startWrite _ _ _, rfl⟩

theorem leadsTo_readDatetime_of_acknowledged (s : State) (b : List Byte) (osf : Bool) :
    LeadsTo s .getdtAck b osf (0x92#8 :: List.replicate 7 0#8) .getdtData osf :=
  .read (a := PReg.seconds.addr) (m := 7) fun _ _ => rfl

/-- The 7-byte read ends GETDT with the masked bytes decoded. -/
theorem Sending.completes_getdtData {i : Instr} {s : State} {k n : Nat} {evs : List Event} {osf : Bool} {e : Byte} {b : List Byte}
    (h : Sending i s (k + 3) evs n osf (0x92#8 :: List.replicate 7 0#8) .getdtData) (hr : s.answerNo n 8 = .ok (e :: b)) :
    Completes i s .ok (List.zipWith (fun v m => fromBcd (v &&& m)) b s.cfg.getdtMask.toList)
      (evs ++ frameEvents s (0x92#8 :: List.replicate 7 0#8) (.ok (e :: b))) (n + 1) osf .deasserted :=
  h.completes hr (fun t ht => by rw [← ht.cfg]; rfl) (by simp)

/-- Settles O17: the preliminary read leads straight to the 7-byte read. -/
theorem getdtWithFlagClearReadsTwice : Obligations.GetdtWithFlagClearReadsTwice := by
  intro e sec e' b s h hbound hr0 hclear hr1
  have hread := (Sending.first h hbound .getdt rfl).next (k := 15) hr0 (leadsTo_readDatetime_of_clear _ hclear)
  exact hread.completes_getdtData (k := 12) hr1

/-- GETDT, its preliminary read done and the flag seen: OSF_SEEN is set and the corrective write comes next. -/
theorem sending_getdtAck {e sec : Byte} (h : Ready s) (hbound : s.bound = true) (hr : s.answerNo 0 2 = .ok [e, sec])
    (hseen : sec &&& s.cfg.osfMask ≠ 0) :
    Sending .getdt s 15 (frameEvents s [0x92#8, 0#8] (.ok [e, sec])) 1 true [0x12#8, sec &&& ~~~s.cfg.osfMask] .getdtAck :=
  (Sending.first h hbound .getdt rfl).next hr (leadsTo_acknowledge_of_seen _ hseen)

/-- Settles O18: between the two reads stands the one corrective write. -/
theorem getdtWithFlagSeenAcknowledgesOnce : Obligations.GetdtWithFlagSeenAcknowledgesOnce := by
  intro e sec e' rx b s h hbound hr0 hseen hr1 hr2
  have hread := (sending_getdtAck h hbound hr0 hseen).next (k := 12) hr1 (leadsTo_readDatetime_of_acknowledged _ _ _)
  exact hread.completes_getdtData (k := 9) hr2

/-- Settles O19: OSF_SEEN is set before either of the two frames starts, and a frame that times out is the last one. -/
theorem getdtTimeoutKeepsOsfSeen : Obligations.GetdtTimeoutKeepsOsfSeen := by
  intro e sec s h hbound hr0 hseen
  have hack := sending_getdtAck h hbound hr0 hseen
  refine ⟨fun hr1 => hack.completes_timeout (k := 12) hr1, fun rx hr1 hr2 => ?_⟩
  have hread := hack.next (k := 12) hr1 (leadsTo_readDatetime_of_acknowledged _ _ _)
  exact hread.completes_timeout (k := 9) hr2

/-! SETALM (R113, R118). -/

theorem leadsTo_enableAlarm (s : State) (m : BitVec 4) (r : Byte) (osf : Bool) :
    LeadsTo s (.setalmControl m) [r] osf [0x11#8, (r &&& ~~~s.cfg.afMask) ||| s.cfg.aieMask] (.setalmEnabled m) osf :=
  .write (a := PReg.control2.addr) fun t ht => by rw [← ht.cfg]; rfl

theorem writeAlarm_of_keepsInputs {s t : State} (m : BitVec 4) (j : Fin 4) (h : KeepsInputs s t) :
    writeAlarm m j t = startWrite (alarmReg j) [alarmByte (m.getLsbD j.val) (s.alarmData j)] (.setalmField m j) t := by
  rw [writeAlarm, State.alarmData, State.alarmData, h.data]

theorem leadsTo_firstAlarm (s : State) (m : BitVec 4) (b : List Byte) (osf : Bool) :
    LeadsTo s (.setalmEnabled m) b osf (writeBuffer (alarmReg 0) [alarmByte (m.getLsbD 0) (s.alarmData 0)]) (.setalmField m 0)
      osf :=
  .write fun _ ht => writeAlarm_of_keepsInputs m 0 ht

theorem leadsTo_nextAlarm (s : State) (m : BitVec 4) (b : List Byte) (osf : Bool) {j : Fin 4} (hj : j.val + 1 < 4) :
    LeadsTo s (.setalmField m j) b osf
      (writeBuffer (alarmReg ⟨j.val + 1, hj⟩) [alarmByte (m.getLsbD (j.val + 1)) (s.alarmData ⟨j.val + 1, hj⟩)])
      (.setalmField m ⟨j.val + 1, hj⟩) osf :=
  .write fun _ ht => (dif_pos hj).trans (writeAlarm_of_keepsInputs m ⟨j.val + 1, hj⟩ ht)

/-- Settles O20: the read of control_2 leads to its write, that to the first alarm register, each alarm register to the next, and
the fourth ends the request. -/
theorem setalmWritesControlThenFourAlarms : Obligations.SetalmWritesControlThenFourAlarms := by
  intro m e r w1 w2 w3 w4 w5 s h hbound hset hrange hr0 hr1 hr2 hr3 hr4 hr5
  have hcontrol := (Sending.first h hbound (.setalm m hset hrange) rfl).next (k := 15) hr0 (leadsTo_enableAlarm _ _ _ _)
  have hminute := hcontrol.next (k := 12) hr1 (leadsTo_firstAlarm _ _ _ _)
  have hhour := hminute.next (k := 9) hr2 (leadsTo_nextAlarm _ _ _ _ (by decide))
  have hday := hhour.next (k := 6) hr3 (leadsTo_nextAlarm _ _ _ _ (by decide))
  have hweekday := hday.next (k := 3) hr4 (leadsTo_nextAlarm _ _ _ _ (by decide))
  exact hweekday.completes (k := 0) hr5 (fun _ _ => rfl) (Nat.zero_le _)

/-! CLRAF, CLRTF, CLRALL (R115 to R117). -/

/-- A request that reads `r` from control_2 and writes `x` to it, always. -/
theorem completes_of_control2_update {i : Instr} {s : State} {p q : Point} {e r x : Byte} {rx : List Byte} (h : Ready s)
    (hbound : s.bound = true) (hf : FirstFrame s i [0x91#8, 0#8]) (hp : firstPoint i = some p) (hr0 : s.answerNo 0 2 = .ok [e, r])
    (hr1 : s.answerNo 1 2 = .ok rx) (hwrite : ∀ t, KeepsInputs s t → resume p [r] t = startWrite PReg.control2.addr [x] q t)
    (hend : ∀ t, resume q rx.tail t = endRequest .ok [] t) :
    Completes i s .ok [] (frameEvents s [0x91#8, 0#8] (.ok [e, r]) ++ frameEvents s [0x11#8, x] (.ok rx)) 2 false
      .deasserted := by
  have hsend := (Sending.first h hbound hf hp).next (k := 15) hr0 (.write hwrite)
  exact hsend.completes (k := 12) hr1 (fun t _ => hend t) (Nat.zero_le _)

/-- Settles O22: the byte read is written with AF cleared, whether it was set or not. -/
theorem clrafClearsOnlyTheAlarmFlag : Obligations.ClrafClearsOnlyTheAlarmFlag := by
  intro e r rx s h hbound hr0 hr1
  exact completes_of_control2_update h hbound .clraf rfl hr0 hr1 (fun t ht => by rw [← ht.cfg]; rfl) (fun _ => rfl)

/-- Settles O23: the byte read is written with TF cleared, whether it was set or not. -/
theorem clrtfClearsOnlyTheTimerFlag : Obligations.ClrtfClearsOnlyTheTimerFlag := by
  intro e r rx s h hbound hr0 hr1
  exact completes_of_control2_update h hbound .clrtf rfl hr0 hr1 (fun t ht => by rw [← ht.cfg]; rfl) (fun _ => rfl)

/-- Settles O24: the byte read is written with the three flags set. -/
theorem clrallSetsThreeFlags : Obligations.ClrallSetsThreeFlags := by
  intro e r rx s h hbound hr0 hr1
  exact completes_of_control2_update h hbound .clrall rfl hr0 hr1 (fun t ht => by rw [← ht.cfg]; rfl) (fun _ => rfl)

end Sys2Proof.Machine
end

section
/-! PROOF. What the derived requests ask of the peripheral's registers: SETDT of the date-time registers, CLRAF and CLRTF of
control_2, where a flag's mask is one bit that no other mask has (R7, R41, R42). -/

namespace Sys2Proof.Machine

/-! The registers a frame's writes address (R42). -/

theorem Completes.trace {i : Instr} {s : State} {c : Code} {b : List Byte} {evs : List Event} {n : Nat} {osf : Bool}
    {cs : CsLevel} (h : Completes i s c b evs n osf cs) :
    ∃ t, exec i s = .next t ∧ t.trace = s.trace ++ evs := by
  obtain ⟨t, hexec, hended, -⟩ := h
  exact ⟨t, hexec, hended.trace⟩

/-- A read frame asks for no register write (R48). -/
theorem registerWrites_readFrame (s : State) (a : RegAddr) (m : Nat) (r : Answer) :
    (frameEvents s (readBuffer a m) r).flatMap Event.registerWrites = [] := by
  have hread : (cmdByte .read a).getLsbD 7 = true := by revert a; decide
  simp [frameEvents, readBuffer, Event.registerWrites, hread]

/-- A write frame asks for its payload, byte by byte, from its address on (R42, R93). -/
theorem registerWrites_writeFrame (s : State) (a : RegAddr) (v : List Byte) (r : Answer) :
    (frameEvents s (writeBuffer a v) r).flatMap Event.registerWrites = v.mapIdx fun k x => (payloadReg a k, x) := by
  have hwrite : (cmdByte .write a)[7] = false := by revert a; decide
  have haddr : (cmdByte .write a).extractLsb' 0 4 = a := by revert a; decide
  simp [frameEvents, writeBuffer, Event.registerWrites, hwrite, haddr]

theorem dataBytes_seven (s : State) :
    s.dataBytes 7 = [s.data[0], s.data[1], s.data[2], s.data[3], s.data[4], s.data[5], s.data[6]] := by
  refine List.ext_getElem (by simp [State.dataBytes]) fun j hj hj' => ?_
  have hj7 : j < 7 := hj'
  interval_cases j <;> simp [State.dataBytes]

/-- Settles O26: SETDT's one frame is a write of seven bytes at seconds, and the registers follow each other in R41's order. -/
theorem setdtAddressesTheDatetimeRegisters : Obligations.SetdtAddressesTheDatetimeRegisters := by
  intro rx s h hbound hset hrange hr
  obtain ⟨t, hexec, htrace⟩ := (setdtWritesSevenEncodedFields rx s h hbound hset hrange hr).trace
  refine ⟨t, _, hexec, htrace, ?_⟩
  show (frameEvents s (writeBuffer PReg.seconds.addr ((s.dataBytes 7).map toBcd)) (.ok rx)).flatMap Event.registerWrites = _
  rw [registerWrites_writeFrame, dataBytes_seven]
  rfl

/-! The masks of control_2 (R7). -/

/-- A mask of one bit is the mask of some bit's number. -/
theorem exists_maskOf_of_oneBit : ∀ m : Byte, oneBit m = true → ∃ j, m = Config.maskOf j := by decide +kernel

theorem maskOf_and_maskOf_of_ne : ∀ j j' : Fin 8, j ≠ j' → Config.maskOf j &&& Config.maskOf j' = 0 := by decide

/-- Distinct masks of one bit have no bit in common. -/
theorem and_eq_zero_of_oneBit {m m' : Byte} (h : oneBit m = true) (h' : oneBit m' = true) (hne : m ≠ m') : m &&& m' = 0 := by
  obtain ⟨j, rfl⟩ := exists_maskOf_of_oneBit m h
  obtain ⟨j', rfl⟩ := exists_maskOf_of_oneBit m' h'
  exact maskOf_and_maskOf_of_ne j j' fun hj => hne (congrArg _ hj)

/-- The masks of AF and of TF have no bit in common with each other, with MSF's or with AIE's (R7). -/
theorem control2_masks_disjoint {c : Params} (h : c.wellFormed = true) :
    c.afMask &&& c.tfMask = 0 ∧ c.afMask &&& c.msfMask = 0 ∧ c.afMask &&& c.aieMask = 0 ∧ c.tfMask &&& c.msfMask = 0
      ∧ c.tfMask &&& c.aieMask = 0 := by
  simp only [Params.wellFormed, Bool.and_eq_true, bne_iff_ne, and_assoc] at h
  obtain ⟨-, haf, htf, hmsf, haie, haftf, hafmsf, hafaie, htfmsf, htfaie, -⟩ := h
  exact ⟨and_eq_zero_of_oneBit haf htf haftf, and_eq_zero_of_oneBit haf hmsf hafmsf, and_eq_zero_of_oneBit haf haie hafaie,
    and_eq_zero_of_oneBit htf hmsf htfmsf, and_eq_zero_of_oneBit htf haie htfaie⟩

theorem cleared_and_self (r m : Byte) : (r &&& ~~~m) &&& m = 0 := by
  rw [BitVec.and_assoc, BitVec.and_comm (~~~m), BitVec.and_not_self]; exact BitVec.and_zero

theorem cleared_and_compl (r m : Byte) : (r &&& ~~~m) &&& ~~~m = r &&& ~~~m := by
  rw [BitVec.and_assoc, BitVec.and_self]

/-- Clearing a flag keeps a flag that has no bit in common with it. -/
theorem cleared_and_other (r : Byte) {m m' : Byte} (h : m &&& m' = 0) : (r &&& ~~~m) &&& m' = r &&& m' := by
  ext j hj
  have hbit : m[j] = true → m'[j] = false := by simpa using congrArg (·[j]) h
  cases hm : m[j] with
  | false => simp [hm]
  | true => simp [hbit hm]

/-- The register writes of a request that reads control_2 and writes the byte read with the flag `m` cleared: one, which changes
no bit but the flag's. -/
theorem exists_control2_write {i : Instr} {s : State} {osf : Bool} {cs : CsLevel} {e r m : Byte} {rx : List Byte}
    (h : Completes i s .ok [] (frameEvents s [0x91#8, 0#8] (.ok [e, r]) ++ frameEvents s [0x11#8, r &&& ~~~m] (.ok rx)) 2 osf
      cs) :
    ∃ t v evs, exec i s = .next t ∧ t.trace = s.trace ++ evs
      ∧ evs.flatMap Event.registerWrites = [(PReg.control2.addr, v)]
      ∧ v &&& m = 0 ∧ v &&& ~~~m = r &&& ~~~m ∧ ∀ m', m &&& m' = 0 → v &&& m' = r &&& m' := by
  obtain ⟨t, hexec, htrace⟩ := h.trace
  refine ⟨t, r &&& ~~~m, _, hexec, htrace, ?_, cleared_and_self r m, cleared_and_compl r m, fun m' => cleared_and_other r⟩
  have hread := registerWrites_readFrame s PReg.control2.addr 1 (.ok [e, r])
  have hwrite := registerWrites_writeFrame s PReg.control2.addr [r &&& ~~~m] (.ok rx)
  rw [List.flatMap_append]
  exact congrArg₂ _ hread hwrite

/-- Settles O25: each of the two requests asks for one write, which changes its own flag's bit only, and no other mask of
control_2 has that bit. -/
theorem clearingAFlagTouchesNoOtherBit : Obligations.ClearingAFlagTouchesNoOtherBit := by
  intro e r rx s hwf h hbound hr0 hr1
  obtain ⟨haftf, hafmsf, hafaie, htfmsf, htfaie⟩ := control2_masks_disjoint hwf
  constructor
  · obtain ⟨t, v, evs, hexec, htrace, hwrites, hflag, hrest, hother⟩ :=
      exists_control2_write (clrafClearsOnlyTheAlarmFlag e r rx s h hbound hr0 hr1)
    exact ⟨t, v, evs, hexec, htrace, hwrites, hflag, hrest, hother _ haftf, hother _ hafmsf, hother _ hafaie⟩
  · obtain ⟨t, v, evs, hexec, htrace, hwrites, hflag, hrest, hother⟩ :=
      exists_control2_write (clrtfClearsOnlyTheTimerFlag e r rx s h hbound hr0 hr1)
    have htfaf : s.cfg.tfMask &&& s.cfg.afMask = 0 := by rw [BitVec.and_comm, haftf]
    exact ⟨t, v, evs, hexec, htrace, hwrites, hflag, hrest, hother _ htfaf, hother _ htfmsf, hother _ htfaie⟩

end Sys2Proof.Machine
end

section
/-! PROOF. The errors of 60_exceptions.md: a frame that times out, whether a wire command runs it or it is a request's first
(R142); halting (R146); the end of every request in one of the four outcomes (R140). -/

namespace Sys2Proof.Machine

/-! A frame that times out (R142). -/

theorem exec_cmdRead_pending {c : Byte} {payload : List Byte} {p : Point} {s : State} (a : RegAddr)
    (hpos : s.seq = some (.frame (c :: payload) .assert p)) :
    exec (.cmdRead a) s = .next (runFrame ((0x90#8 ||| a.zeroExtend 8) :: List.replicate payload.length 0#8) p s) := by
  simp only [exec, execCmdRead, hpos, readBuffer, cmdByte_read]
  rfl

theorem exec_cmdWrite_pending {c : Byte} {payload : List Byte} {p : Point} {s : State} (a : RegAddr)
    (hpos : s.seq = some (.frame (c :: payload) .assert p)) :
    exec (.cmdWrite a) s = .next (runFrame ((0x10#8 ||| a.zeroExtend 8) :: payload) p s) := by
  simp only [exec, execCmdWrite, hpos, writeBuffer, cmdByte_write]

/-- An instruction that runs a frame in `s` stands at the start of it, nothing emitted yet. -/
theorem Sending.of_runFrame {i : Instr} {s : State} {tx : List Byte} {p : Point} (hu : s.undisturbed = true)
    (hexec : exec i s = .next (runFrame tx p s)) : Sending i s 3 [] 0 s.osfSeen tx p := by
  refine ⟨{ s with seq := some (.frame tx .assert p) }, s.cs, hexec, ?_, rfl⟩
  exact ⟨⟨rfl, rfl, rfl, rfl, rfl, rfl⟩, ⟨rfl, rfl, rfl⟩, (List.append_nil _).symm, rfl, rfl, rfl, rfl, hu⟩

/-- Settles O13: each of the two commands runs one frame with a payload of the pending length, and a frame that times out ends its
request. -/
theorem commandTimeoutEndsTheRequest : Obligations.CommandTimeoutEndsTheRequest := by
  intro a c payload p s hu hpos hr
  have hread := Sending.of_runFrame hu (exec_cmdRead_pending a hpos)
  have hwrite := Sending.of_runFrame hu (exec_cmdWrite_pending a hpos)
  exact ⟨hread.completes_timeout (k := 0) (by simpa using hr), hwrite.completes_timeout (k := 0) hr⟩

/-- Settles O27: a request whose checks are met stands at the start of its first frame, and a frame that times out ends it. -/
theorem firstFrameTimeoutEndsTheRequest : Obligations.FirstFrameTimeoutEndsTheRequest := by
  intro i tx s h hbound hf hr
  obtain ⟨_, p, -, hp, -⟩ := exec_first_frame h hbound hf
  exact (Sending.first h hbound hf hp).completes_timeout (k := 15) hr

/-! A halted block (R28, R146). -/

theorem accept_halted {s : State} (start : State → State) (h : s.halted = true) : accept start s = .fault .stuckHalted :=
  if_pos h

/-- A write to REQ of a halted block is stuck, whether or not the word is a legal one. -/
theorem step_of_request_halted {s : State} {w : ReqWord} {rest : List HostOp} (hidle : s.seq = none) (hh : s.halted = true)
    (hin : s.hostIn = .writeReq w :: rest) : step s = .fault .stuckHalted := by
  have hturn : s.turn = .request w rest := by simp [State.turn, hidle, hin]
  cases hd : decode (.req16 w) with
  | ok i =>
    obtain ⟨start, hexec, -⟩ := exec_request (decodeReq_isRequest hd) (takeRequest w rest s)
    simp only [step, hturn, hd]
    exact hexec.trans (accept_halted start hh)
  | error e =>
    simp only [step, hturn, hd]
    exact accept_halted _ hh

/-- A host action but block reset leaves what the host sees of a halt. -/
theorem hostAction_keepsHalt {op : HostOp} (h : ∀ n, op ≠ .reset n) (s : State) :
    (hostAction op s).halted = s.halted ∧ (hostAction op s).haltCause = s.haltCause
      ∧ (hostAction op s).statusByte = s.statusByte := by
  cases op with
  | writeReq w => exact ⟨rfl, rfl, rfl⟩
  | writeData i v => exact ⟨rfl, rfl, rfl⟩
  | read n r => exact ⟨rfl, rfl, rfl⟩
  | reset n => exact absurd rfl (h n)

/-- Settles O34: a halted block has no request in progress and accepts none, so a step of it waits or is a host action. -/
theorem haltIsPermanent : Obligations.HaltIsPermanent := by
  intro s hsafe hh
  have hidle : s.seq = none := hsafe.halted_idle hh
  refine ⟨fun w rest hin => step_of_request_halted hidle hh hin, fun n r rest hin => ?_, fun t hstep hreset => ?_⟩
  · obtain ⟨t, _, hstep, -⟩ := hostReadsAreSideEffectFree s n r rest hin (.inl hidle)
    exact ⟨t, hstep⟩
  · cases step_cases hstep with
    | waited _ _ ht => rw [ht]; exact ⟨hh, rfl, rfl, rfl⟩
    | requested _ _ _ _ _ hlive => simp [hh] at hlive
    | acted op rest hin _ _ ht =>
      have hop : ∀ n, op ≠ .reset n := fun n heq => hreset n rest (heq ▸ hin)
      obtain ⟨hhalted, hcause, hstatus⟩ := hostAction_keepsHalt hop { s with hostIn := rest }
      rw [ht]
      exact ⟨hhalted.trans hh, hcause, hstatus, hostAction_trace hop _⟩
    | commanded _ _ _ _ hpos => simp [hidle] at hpos
    | ran _ _ hpos => simp [hidle] at hpos

/-! The outcome of a request (R140). -/

/-- The marks of the four outcomes on the state a request `i` ends in (R140): only a violation halts (R143), only INIT makes a
construction error and is then unbound (R95), only OK leaves a result (R31, R142, R143). -/
structure OutcomeMarks (i : Instr) (t : State) : Prop where
  halts : t.halted = true ↔ t.code = .contractViolation
  construction : t.code = .constructionError → ∃ x c, i = .init x c ∧ t.bound = false
  noResult : t.code ≠ .ok → t.resLen = 0

/-- A request `i` is in progress on a block that has not halted, or has ended with the marks of its outcome. -/
inductive TowardsOutcome (i : Instr) (t : State) : Prop where
  | running {pos : SeqPos} (hpos : t.seq = some pos) (hlive : t.halted = false)
  | ended (hidle : t.seq = none) (hmarks : OutcomeMarks i t)

section

variable {i : Instr} {s : State}

theorem TowardsOutcome.end_ok (hlive : s.halted = false) (b : List Byte) : TowardsOutcome i (endRequest .ok b s) :=
  .ended rfl ⟨iff_of_false (by simp [hlive]) nofun, nofun, fun h => absurd rfl h⟩

theorem TowardsOutcome.end_timeout (hlive : s.halted = false) : TowardsOutcome i (raiseTimeout s) :=
  .ended rfl ⟨iff_of_false (by simp [hlive]) nofun, nofun, fun _ => rfl⟩

theorem TowardsOutcome.resume (hlive : s.halted = false) (p : Point) (b : List Byte) : TowardsOutcome i (resume p b s) := by
  rcases resume_cases p b s with ⟨o, a, n, q, h, -⟩ | ⟨o, a, v, q, h, -⟩ | ⟨l, h⟩
  · rw [h]; exact .running rfl hlive
  · rw [h]; exact .running rfl hlive
  · rw [h]; exact .end_ok hlive l

theorem TowardsOutcome.advanceAt (hlive : s.halted = false) (pos : SeqPos) : TowardsOutcome i (advanceAt pos s) := by
  have hdeasserted : (emit (.cs .deassert) s).halted = false := hlive
  cases pos with
  | hook c => exact .ended rfl ⟨iff_of_true rfl rfl, nofun, fun _ => rfl⟩
  | initIdle => exact .end_ok hdeasserted []
  | frame tx ph p =>
    cases ph with
    | assert => exact .running rfl hlive
    | xfer => exact .running rfl hlive
    | deassert r =>
      cases r with
      | ok rx => exact .resume hdeasserted p rx.tail
      | timeout => exact .end_timeout hdeasserted

theorem TowardsOutcome.run (h : TowardsOutcome i s) (k : Nat) : TowardsOutcome i (run k s) := by
  refine run_induction (P := TowardsOutcome i) (fun t pos hpos ht => ?_) k s h
  rw [advance_some hpos]
  cases ht with
  | running _ hlive => exact .advanceAt (s := { t with hostIn := tick t.hostIn }) hlive pos
  | ended hidle => simp [hidle] at hpos

theorem StartedBy.towardsOutcome {u : State} (h : StartedBy i s u) (hlive : s.halted = false) : TowardsOutcome i u := by
  cases h with
  | raised c => exact .running rfl hlive
  | ended b => exact .end_ok hlive b
  | failed x c hi => exact .ended rfl ⟨iff_of_false (by simp [hlive]) nofun, fun _ => ⟨x, c, hi, rfl⟩, fun _ => rfl⟩
  | bound => exact .running rfl hlive
  | read a n p => exact .running rfl hlive
  | write a v p => exact .running rfl hlive

end

/-- Settles O35: a request of a ready block runs to its end, and each of its ends leaves the marks of its outcome. -/
theorem everyRequestEndsInOneOutcome : Obligations.EveryRequestEndsInOneOutcome := by
  intro i s hi hr
  obtain ⟨u, hu, hexec, hidle⟩ := exec_request_ready hi hr
  have hbusy : (run maxEvents u).busy = false := by
    rw [run_busy_seq maxEvents ((silent_of_started hu).busy_seq rfl), hidle]; rfl
  obtain ⟨u', hu', heq⟩ := exec_next_startedBy hi hexec
  have hend : TowardsOutcome i (run maxEvents u) := heq ▸ (hu'.towardsOutcome hr.not_halted).run maxEvents
  cases hend with
  | running hpos => simp [hidle] at hpos
  | ended _ hmarks => exact ⟨_, hexec, hbusy, hidle, hmarks.halts, hmarks.construction, hmarks.noResult⟩

end Sys2Proof.Machine
end

section
/-! PROOF. Block reset (70_reset_and_hazards.md): the state after it (R160), that this state is safe with every choice of the OPEN
masks (R7), and the reset input (R161). -/

namespace Sys2Proof.Machine

/-! The state after reset (R160). -/

theorem statusByte_reset : State.reset.statusByte = 0 := by decide

/-- Settles O40: each field is as written in `State.reset`, and STATUS is put together from fields that are 0. -/
theorem resetStateAsTheSpecGivesIt : Obligations.ResetStateAsTheSpecGivesIt :=
  ⟨rfl, rfl, rfl, rfl, rfl, rfl, rfl, statusByte_reset, rfl, rfl⟩

/-! The OPEN masks (R7). -/

theorem oneBit_maskOf : ∀ j : Fin 8, oneBit (Config.maskOf j) = true := by decide

theorem maskOf_injective : Function.Injective Config.maskOf := by decide

/-- A layout of control_2 gives different flags different masks. -/
theorem maskOf_layout_ne (layout : Equiv.Perm (Fin 8)) {j j' : Fin 8} (h : j ≠ j') :
    Config.maskOf (layout j) ≠ Config.maskOf (layout j') :=
  maskOf_injective.ne (layout.injective.ne h)

/-- Nothing is asked of the OPEN values: a mask of a bit's number has one bit, and the layout is injective. -/
theorem params_wellFormed : Config.params.wellFormed = true := by
  have hne {j j' : Fin 8} (h : j ≠ j') := maskOf_layout_ne Config.control2Layout h
  simp [Params.wellFormed, Config.params, oneBit_maskOf, hne]

/-- Settles O50: a block after reset is live, idle, outside every frame and not bound. -/
theorem resetStateIsSafe : Obligations.ResetStateIsSafe :=
  have hlive : Live State.reset := ⟨rfl, rfl, nofun, params_wellFormed⟩
  hlive.safe (hbusy := rfl) (hpos := nofun) (htrace := rfl) (hline := iff_of_false nofun (· rfl)) (hknown := nofun)

/-! The reset input (R161). -/

/-- A reset that is due is the next turn, inside a request too. -/
theorem turn_of_reset_due {s : State} {n : Nat} {rest : List HostOp} (hh : s.hostIn = .reset n :: rest)
    (hdue : s.seq = none ∨ n = 0) : s.turn = .host (.reset n) rest := by
  cases hs : s.seq with
  | none => simp [State.turn, hs, hh]
  | some pos =>
    have hn : n = 0 := hdue.resolve_left (by simp [hs])
    simp [State.turn, hs, hh, hn]

/-- Settles O39: a reset that is due lands as `blockReset`, which takes every field R160 gives a value from `State.reset` and keeps
the parameters and what is left of the host's list. -/
theorem resetInputGivesTheResetState : Obligations.ResetInputGivesTheResetState := by
  intro s n rest hh hdue
  obtain ⟨hbound, hhalted, hcause, hbusy, hcs, hdset, hlen, hstatus, hseq, htrace⟩ := resetStateAsTheSpecGivesIt
  exact ⟨blockReset { s with hostIn := rest }, step_of_host (turn_of_reset_due hh hdue),
    hbound, hhalted, hcause, hbusy, hcs, hdset, hlen, hstatus, hseq, htrace, rfl, rfl⟩

end Sys2Proof.Machine
end
